-- ==== Sys2Proof/Word.lean ====
section
/-! DEFINITION. The word types of the PDU and its three width variants (spec R1, R5, R7). -/

namespace Sys2Proof

/-- The command word of a request: one 8-bit word (R50). -/
abbrev Cmd := BitVec 8

/-- A header port, a body word (R13, R60): 64 bits. -/
abbrev Word64 := BitVec 64

/-- One byte of a magnitude (R31). -/
abbrev Byte := BitVec 8

/-- The scalar result port `r_s` (R14): 32 bits. -/
abbrev Scalar := BitVec 32

/-- A word on a port whose width is a build parameter (`v_mag`, `v_scale`, `ns`, `rv_mag`,
`rv_scale`; R6, R13, R14), held as its `uint` (R7). Every reader takes it modulo 2^width. DESIGN CHOICE,
log 2, safe. -/
abbrev PortWord := Nat

/-- The width variants W = 64, 96, 128 (R1, R51). -/
inductive Width where
  | w64
  | w96
  | w128
deriving DecidableEq, Repr

/-- HB_W: the width of the header word in bits, W − 64 (R5). -/
def Width.hb : Width → Nat
  | .w64 => 0
  | .w96 => 32
  | .w128 => 64

end Sys2Proof
end

