-- ==== Sys2Proof/Syntax.lean ====
section
/-! DEFINITION. The operations of the PDU: one constructor per row of spec/opcode_table.json. The
command word carries no operand (R70): operands are fields of the request, so no constructor has a
field. -/

namespace Sys2Proof

/-- The 27 operations `<name>.<W>` (R52). -/
inductive Instr where
  /-- ENC.64 (R91) -/
  | enc64
  /-- DEC.64 (R95) -/
  | dec64
  /-- ADD.64 (R119) -/
  | add64
  /-- SUB.64 (R122) -/
  | sub64
  /-- NEG.64 (R126) -/
  | neg64
  /-- RSC.64 (R130) -/
  | rsc64
  /-- CMP.64 (R140) -/
  | cmp64
  /-- EQ.64 (R136) -/
  | eq64
  /-- HASH.64 (R144) -/
  | hash64
  /-- ENC.96 (R89) -/
  | enc96
  /-- DEC.96 (R93) -/
  | dec96
  /-- ADD.96 (R120) -/
  | add96
  /-- SUB.96 (R123) -/
  | sub96
  /-- NEG.96 (R127) -/
  | neg96
  /-- RSC.96 (R131) -/
  | rsc96
  /-- CMP.96 (R141) -/
  | cmp96
  /-- EQ.96 (R137) -/
  | eq96
  /-- HASH.96 (R145) -/
  | hash96
  /-- ENC.128 (R90) -/
  | enc128
  /-- DEC.128 (R94) -/
  | dec128
  /-- ADD.128 (R121) -/
  | add128
  /-- SUB.128 (R124) -/
  | sub128
  /-- NEG.128 (R128) -/
  | neg128
  /-- RSC.128 (R132) -/
  | rsc128
  /-- CMP.128 (R142) -/
  | cmp128
  /-- EQ.128 (R138) -/
  | eq128
  /-- HASH.128 (R146) -/
  | hash128
deriving DecidableEq, Repr

end Sys2Proof
end

