-- ==== Sys2Proof/Decode.lean ====
section
/-! DEFINITION. The command word (spec R50 to R53): its fields, the decoder, total on every byte and
rejecting by name, and the encoder written from the same tables. -/

namespace Sys2Proof

/-- Why a command word is reserved (R53). Whichever name applies, the response is the same error
`IllegalCommand`. -/
inductive DecodeReject where
  /-- `cmd[7:6]` is not 0b00. -/
  | reservedBits
  /-- `WSEL` is 0b11. -/
  | reservedWidth
  /-- `OP` is 0x9 to 0xF. -/
  | reservedOp
deriving DecidableEq, Repr

/-- The nine operations (R52). -/
inductive Op where
  | enc
  | dec
  | add
  | sub
  | neg
  | rsc
  | cmp
  | eq
  | hash
deriving DecidableEq, Repr

/-- `RSV` = `cmd[7:6]` (R50). -/
def cmdRsv (c : Cmd) : BitVec 2 := c.extractLsb' 6 2

/-- `WSEL` = `cmd[5:4]` (R50). -/
def cmdWsel (c : Cmd) : BitVec 2 := c.extractLsb' 4 2

/-- `OP` = `cmd[3:0]` (R50). -/
def cmdOp (c : Cmd) : BitVec 4 := c.extractLsb' 0 4

/-- The width a `WSEL` selects (R51); none where it is reserved. -/
def widthOfWsel (x : BitVec 2) : Option Width :=
  match x.toNat with
  | 0 => some .w64
  | 1 => some .w96
  | 2 => some .w128
  | _ => none

/-- The operation an `OP` selects (R52); none where it is reserved. -/
def opOfNibble (x : BitVec 4) : Option Op :=
  match x.toNat with
  | 0 => some .enc
  | 1 => some .dec
  | 2 => some .add
  | 3 => some .sub
  | 4 => some .neg
  | 5 => some .rsc
  | 6 => some .cmp
  | 7 => some .eq
  | 8 => some .hash
  | _ => none

/-- The operation named `<name>.<W>` (R52). -/
def instrOf : Width → Op → Instr
  | .w64, .enc => .enc64
  | .w64, .dec => .dec64
  | .w64, .add => .add64
  | .w64, .sub => .sub64
  | .w64, .neg => .neg64
  | .w64, .rsc => .rsc64
  | .w64, .cmp => .cmp64
  | .w64, .eq => .eq64
  | .w64, .hash => .hash64
  | .w96, .enc => .enc96
  | .w96, .dec => .dec96
  | .w96, .add => .add96
  | .w96, .sub => .sub96
  | .w96, .neg => .neg96
  | .w96, .rsc => .rsc96
  | .w96, .cmp => .cmp96
  | .w96, .eq => .eq96
  | .w96, .hash => .hash96
  | .w128, .enc => .enc128
  | .w128, .dec => .dec128
  | .w128, .add => .add128
  | .w128, .sub => .sub128
  | .w128, .neg => .neg128
  | .w128, .rsc => .rsc128
  | .w128, .cmp => .cmp128
  | .w128, .eq => .eq128
  | .w128, .hash => .hash128

/-- The decoder (R53): every byte is an operation or a reserved command, named. -/
def decode (c : Cmd) : Except DecodeReject Instr :=
  if cmdRsv c ≠ 0#2 then .error .reservedBits
  else
    match widthOfWsel (cmdWsel c), opOfNibble (cmdOp c) with
    | none, _ => .error .reservedWidth
    | some _, none => .error .reservedOp
    | some w, some o => .ok (instrOf w o)

/-- The width variant an operation works in (R51). -/
def Instr.width : Instr → Width
  | .enc64 | .dec64 | .add64 | .sub64 | .neg64 | .rsc64 | .cmp64 | .eq64 | .hash64 => .w64
  | .enc96 | .dec96 | .add96 | .sub96 | .neg96 | .rsc96 | .cmp96 | .eq96 | .hash96 => .w96
  | .enc128 | .dec128 | .add128 | .sub128 | .neg128 | .rsc128 | .cmp128 | .eq128 | .hash128 => .w128

/-- The operation without its width (R52). -/
def Instr.op : Instr → Op
  | .enc64 | .enc96 | .enc128 => .enc
  | .dec64 | .dec96 | .dec128 => .dec
  | .add64 | .add96 | .add128 => .add
  | .sub64 | .sub96 | .sub128 => .sub
  | .neg64 | .neg96 | .neg128 => .neg
  | .rsc64 | .rsc96 | .rsc128 => .rsc
  | .cmp64 | .cmp96 | .cmp128 => .cmp
  | .eq64 | .eq96 | .eq128 => .eq
  | .hash64 | .hash96 | .hash128 => .hash

/-- `WSEL` of a width (R51). -/
def wselOf : Width → BitVec 2
  | .w64 => 0b00#2
  | .w96 => 0b01#2
  | .w128 => 0b10#2

/-- `OP` of an operation (R52). -/
def nibbleOf : Op → BitVec 4
  | .enc => 0x0#4
  | .dec => 0x1#4
  | .add => 0x2#4
  | .sub => 0x3#4
  | .neg => 0x4#4
  | .rsc => 0x5#4
  | .cmp => 0x6#4
  | .eq => 0x7#4
  | .hash => 0x8#4

/-- The encoder: `RSV` = 0b00, then `WSEL`, then `OP` (R50). -/
def encode (i : Instr) : Cmd := 0b00#2 ++ wselOf i.width ++ nibbleOf i.op

/-- The command word of an opcode-table word: its low `nbits` bits, the bits above them zero. -/
def cmdOfTableWord (nbits w : Nat) : Cmd := BitVec.ofNat 8 (w % 2 ^ nbits)

/-- The decoder on a word numbered as spec/opcode_table.json numbers it. A command is one byte (R50),
so the table's bits are the command's. -/
def decodeTableWord (nbits w : Nat) : Option Instr :=
  match decode (cmdOfTableWord nbits w) with
  | .ok i => some i
  | .error _ => none

end Sys2Proof
end

