-- ==== Sys2Proof/Config.lean ====
section
/-! DEFINITION. What a build of the PDU fixes (spec R6, R18): the boundary constants and the port
widths, as plain data, and the hash functions, which the spec leaves uninterpreted. -/

namespace Sys2Proof

/-- The parameters of a build (R6). The model carries them in State as the field `cfg`, which no step
changes (log 1), so a claim over every state is a claim over every build. -/
structure Config where
  /-- `MAX_96`, the largest unscaled integer of W = 96. -/
  max96 : Int
  /-- `MIN_96`, the smallest. -/
  min96 : Int
  /-- `MAX_128`. -/
  max128 : Int
  /-- `MIN_128`. -/
  min128 : Int
  /-- `MAGW`, the width of the magnitude on the value port. -/
  magW : Nat
  /-- `SCW`, the width of a signed scale on the value port and of `ns`. -/
  scW : Nat
deriving DecidableEq, Repr

/-- The defaults of R6. -/
def Config.default : Config where
  max96 := 2 ^ 87 - 1
  min96 := -2 ^ 87
  max128 := 2 ^ 119 - 1
  min128 := -2 ^ 119
  magW := 128
  scW := 8

/-- `hashfn_64` (R6, R143): an open parameter, a total function of the body word. A free value: it
has no body, so nothing can be proved of a hash but that equal bits have equal hashes (log 3, safe). -/
opaque Config.hashfn64 : BitVec 64 → BitVec 32

/-- `hashfn_96` (R6, R143): of the 32-bit header word and the body word (log 3, safe). -/
opaque Config.hashfn96 : BitVec 32 → BitVec 64 → BitVec 32

/-- `hashfn_128` (R6, R143): of the 64-bit header word and the body word (log 3, safe). -/
opaque Config.hashfn128 : BitVec 64 → BitVec 64 → BitVec 32

end Sys2Proof
end

