-- ==== Sys2Proof/Machine/State.lean ====
section
/-! DEFINITION. What the PDU holds (spec 10_state.md): the request and response records, the requests
and responses that are on their way over the two channels, the inputs the host drives, and the
parameters the unit was built with. There is no register, flag, program counter or memory
(R10, R12, R17 to R20). -/

namespace Sys2Proof.Machine

/-- The error kinds (R150). -/
inductive ErrorKind where
  /-- `sint(v_scale)` > 6; raised by ENC. -/
  | scaleTooLarge
  /-- `sint(ns)` < 0, > 6 or below the stored scale; raised by RSC. -/
  | invalidScale
  /-- The normalized unscaled integer is above `MAX_W`; raised by ENC. -/
  | valueTooLarge
  /-- The normalized unscaled integer is below `MIN_W`; raised by ENC. -/
  | valueTooSmall
  /-- The exact result is outside `MIN_W` .. `MAX_W`; raised by ADD, SUB, NEG, RSC. -/
  | arithmeticOverflow
  /-- A packed operand is not canonical; raised by DEC, ADD, SUB, NEG, RSC, CMP at W = 96 and 128. -/
  | nonCanonicalOperand
  /-- `cmd` is reserved; raised by the decoder. -/
  | illegalCommand
deriving DecidableEq, Repr

/-- `Packed_W` (R7, R33): the two-field record (header word, body word) of one width. At W = 64 the
header word is empty. -/
structure Packed (w : Width) where
  /-- The header word, HB_W bits. -/
  h : BitVec w.hb
  /-- The body word. -/
  b : Word64
deriving DecidableEq, Repr

/-- A value-model decimal (R7): sign, magnitude, scale. It stands for ±mag × 10^(−scale). -/
structure Value where
  neg : Bool
  mag : Nat
  scale : Int
deriving DecidableEq, Repr

/-- The request record (R13). -/
structure Request where
  cmd : Cmd
  aH : Word64
  aB : Word64
  bH : Word64
  bB : Word64
  vNeg : BitVec 1
  vMag : PortWord
  vScale : PortWord
  ns : PortWord
deriving DecidableEq, Repr

/-- A response, held as the sum R14 asks for. What stands on the response port is `Response.ports`. -/
inductive Response where
  /-- `Ok(Packed_W)`: ENC, ADD, SUB, NEG, RSC. -/
  | packed (w : Width) (p : Packed w)
  /-- `Ok(Value)`: DEC. -/
  | value (v : Value)
  /-- `Ok(scalar)`: CMP, EQ, HASH. -/
  | scalar (x : Scalar)
  /-- `Err(kind)`: carries nothing else. -/
  | err (k : ErrorKind)
deriving DecidableEq, Repr

/-- The response record on the port (R14). -/
structure Ports where
  st : BitVec 4
  rH : Word64
  rB : Word64
  rvNeg : BitVec 1
  rvMag : PortWord
  rvScale : PortWord
  rS : Scalar
deriving DecidableEq, Repr

/-- The machine at transaction level (D1, R23). `requests`, `rst` and `rspReady` are the host's inputs;
the host may change them between steps. -/
structure State where
  /-- The parameters of the build (R6, R18). No step changes them (log 1). -/
  cfg : Config
  /-- The reset input `rst` (R170). -/
  rst : Bool
  /-- The requests the host offers, in the order it issues them; the head stands on the request port
  (R12, R23). -/
  requests : List Request
  /-- The request being answered, as sampled when it was accepted (R36). -/
  req : Request
  /-- The responses of accepted requests that are not yet delivered, oldest first (R21, R23). -/
  responses : List Response
  /-- The host's `rsp_ready` input (R23). -/
  rspReady : Bool
  /-- The responses delivered so far, oldest first: the host's record, the model's own field (R23, log 6). -/
  delivered : List Response
deriving DecidableEq, Repr

/-- The reasons a step could stop. There is none, so the type has no constructor: `exec` is total and
every failure is an error response (R53, R152, R153). Nobody raises a fault; safe. -/
inductive Fault where
deriving DecidableEq, Repr

/-- The refusals of a step. -/
inductive Refusal where
  /-- An operation with no meaning in the model, by its mnemonic. Raised only by an arm of `exec` that
  has no meaning yet; no arm has it. Safe: the model stops where the hardware goes on. -/
  | notModelled (mnemonic : String)
deriving DecidableEq, Repr

/-- A request record of zeros (log 6). -/
def Request.zero : Request where
  cmd := 0#8
  aH := 0#64
  aB := 0#64
  bH := 0#64
  bB := 0#64
  vNeg := 0#1
  vMag := 0
  vScale := 0
  ns := 0

/-- The machine right after reset: `rst` is 0 again and no response is pending (R22, R170); the build
has the default parameters (R6). No request is offered, no sample is held, the host is not ready and
nothing was delivered: DESIGN CHOICE, log 6, unsafe. -/
def State.reset : State where
  cfg := Config.default
  rst := false
  requests := []
  req := Request.zero
  responses := []
  rspReady := false
  delivered := []

end Sys2Proof.Machine
end

