-- ==== Sys2Proof/Machine/Operands.lean ====
section
/-! DEFINITION. How operands are read (spec 30_encoding.md, 40_codec.md section 1): the mathematical
functions of the external library (R80 to R83), the fields of a packed value (R60), its canonical form
(R66), reading it back (R92), and the operands of a request (R13, R70). -/

namespace Sys2Proof.Machine

/-! ## Parameters per width (R5, R6) -/

/-- NL_W: the spare byte lanes of the header word (R5). -/
def nlOf : Width → Nat
  | .w64 => 0
  | .w96 => 3
  | .w128 => 7

/-- Lmax_W: the largest Extended byte length (R5). W = 64 has no Extended form. -/
def lmaxOf : Width → Nat
  | .w64 => 8
  | .w96 => 11
  | .w128 => 15

/-- `MAX_W`; W = 64 is fixed at 2^63 − 1 (R6). -/
def maxOf (c : Config) : Width → Int
  | .w64 => 2 ^ 63 - 1
  | .w96 => c.max96
  | .w128 => c.max128

/-- `MIN_W`; W = 64 is fixed at −2^63 (R6). -/
def minOf (c : Config) : Width → Int
  | .w64 => -2 ^ 63
  | .w96 => c.min96
  | .w128 => c.min128

/-! ## The functions of the external math library (R80 to R83) -/

/-- `pow10(k)` = 10^k (R80). -/
def pow10 (k : Nat) : Int := ((10 ^ k : Nat) : Int)

/-- `trunc_64(n)` (R7). -/
def trunc64 (n : Int) : Word64 := BitVec.ofInt 64 n

/-- The least number from `k` on that satisfies `p`, among the first `fuel`; `k + fuel` if none does. -/
def leastFrom (p : Nat → Bool) : Nat → Nat → Nat
  | 0, k => k
  | fuel + 1, k => if p k then k else leastFrom p fuel (k + 1)

/-- Enough search steps for the digit count and the byte length of `n`: its bit length. -/
def searchFuel (n : Int) : Nat := Nat.log2 n.natAbs + 1

/-- `digits(n)`: the least d ≥ 1 with |n| < 10^d (R81). -/
def digits (n : Int) : Nat := leastFrom (fun d => decide (n.natAbs < 10 ^ d)) (searchFuel n) 1

/-- −2^(8L−1) ≤ n ≤ 2^(8L−1) − 1: n has a two's-complement form of L bytes (R82). -/
def fitsBytes (n : Int) (L : Nat) : Bool :=
  decide (-((2 ^ (8 * L - 1) : Nat) : Int) ≤ n ∧ n < ((2 ^ (8 * L - 1) : Nat) : Int))

/-- `tc_len(n)`: the least L ≥ 1 whose L bytes hold n (R82). -/
def tcLen (n : Int) : Nat := leastFrom (fitsBytes n) (searchFuel n) 1

/-- `tc_bytes(n, L)`: B[i] = floor((n mod 2^(8L)) / 2^(8(L−1−i))) mod 256 (R83, R31). -/
def tcBytes (n : Int) (L : Nat) : List Byte :=
  (List.range L).map fun i =>
    BitVec.ofNat 8 ((n % ((2 ^ (8 * L) : Nat) : Int)).toNat / 2 ^ (8 * (L - 1 - i)))

/-- The big-endian number a byte array spells: B[0] ++ B[1] ++ ... as `uint` (R31). -/
def bytesToNat (B : List Byte) : Nat := B.foldl (fun acc x => acc * 256 + x.toNat) 0

/-- `tc_value(B)` = sint of the 8L-bit vector B[0] ++ ... ++ B[L−1] (R83). -/
def tcValue (B : List Byte) : Int := (BitVec.ofNat (8 * B.length) (bytesToNat B)).toInt

/-- B is minimal: L = 1, or its first byte is not pure sign extension (R66, R83). -/
def minimalBytes : List Byte → Bool
  | b0 :: b1 :: _ =>
    !(b0 == 0x00#8 && decide (b1.toNat < 0x80)) && !(b0 == 0xFF#8 && decide (0x80 ≤ b1.toNat))
  | _ => true

/-! ## The fields of a packed value (R60) -/

/-- `sc`: the stored scale, the top nibble of the header word (R60). -/
def Packed.sc {w : Width} (p : Packed w) : BitVec 4 := p.h.extractLsb' (w.hb - 4) 4

/-- `tag`: the nibble below it (R60). -/
def Packed.tag {w : Width} (p : Packed w) : BitVec 4 := p.h.extractLsb' (w.hb - 8) 4

/-- `lanes`: the NL spare byte lanes, the low 8·NL bits (R60). -/
def Packed.lanes {w : Width} (p : Packed w) : BitVec (8 * nlOf w) :=
  p.h.extractLsb' 0 (8 * nlOf w)

/-- Lane k is `h[8k+7 : 8k]` (R60). -/
def Packed.lane {w : Width} (p : Packed w) (k : Nat) : Byte := p.lanes.extractLsb' (8 * k) 8

/-- The low k lanes, most significant first (R32, R66). -/
def Packed.laneBytes {w : Width} (p : Packed w) (k : Nat) : List Byte :=
  (List.range k).reverse.map p.lane

/-- The 8 bytes of the body word, most significant first (R32). -/
def Packed.bodyBytes {w : Width} (p : Packed w) : List Byte :=
  (List.range 8).reverse.map fun j => p.b.extractLsb' (8 * j) 8

/-- The bytes B an Extended tag of 8 + k stands for: k lanes, then the body (R66 (b)). -/
def Packed.magBytes {w : Width} (p : Packed w) (k : Nat) : List Byte := p.laneBytes k ++ p.bodyBytes

/-- The wire fields (header word, body word) of a packed value: the identity on bits (R33, R74). -/
def toFields {w : Width} (p : Packed w) : BitVec w.hb × Word64 := (p.h, p.b)

/-- A packed value from its wire fields: the identity on bits, and it checks nothing (R74). -/
def fromFields {w : Width} (f : BitVec w.hb × Word64) : Packed w := ⟨f.1, f.2⟩

/-! ## Canonical form and reading back -/

/-- Compact as a test: `tag` = 8 at W = 96 and 128, always at W = 64 (R61, R65; 41_arithmetic.md). -/
def isCompact {w : Width} (p : Packed w) : Bool := w == .w64 || p.tag == 8#4

/-- R66 (a): `tag` = 8 and `lanes` = 0. -/
def canonicalCompact {w : Width} (p : Packed w) : Bool := p.tag == 8#4 && p.lanes == 0#_

/-- R66 (b): an Extended tag, no bit above the lanes in use, minimal bytes, a value in range. -/
def canonicalExtended (c : Config) {w : Width} (p : Packed w) : Bool :=
  let k := p.tag.toNat - 8
  let B := p.magBytes k
  decide (9 ≤ p.tag.toNat ∧ p.tag.toNat ≤ lmaxOf w) && p.lanes >>> (8 * k) == 0#_ &&
    minimalBytes B && decide (minOf c w ≤ tcValue B ∧ tcValue B ≤ maxOf c w)

/-- `canonical_W(p)` (R66). -/
def canonical (c : Config) {w : Width} (p : Packed w) : Bool :=
  w == .w64 || (decide (p.sc.toNat ≤ 6) && (canonicalCompact p || canonicalExtended c p))

/-- `unpack_W(p)` for a canonical p: the signed unscaled integer and the stored scale (R92). -/
def unpack {w : Width} (p : Packed w) : Int × Nat :=
  if w = .w64 then (p.b.toInt, 6)
  else if p.tag = 8#4 then (p.b.toInt, p.sc.toNat)
  else
    let k := p.tag.toNat - 8
    ((p.lanes.extractLsb' 0 (8 * k) ++ p.b).toInt, p.sc.toNat)

/-! ## The operands of a request (R13, R70) -/

/-- A signed port word of SCW bits, read as `sint` (R7, R70). -/
def sintPort (c : Config) (x : PortWord) : Int := (BitVec.ofNat c.scW x).toInt

/-- The header word of width W on a 64-bit header port: its low HB_W bits (R13). -/
def headerOfPort (w : Width) (h : Word64) : BitVec w.hb := h.extractLsb' 0 w.hb

/-- Packed operand A at width W (R13). -/
def Request.packedA (q : Request) (w : Width) : Packed w := ⟨headerOfPort w q.aH, q.aB⟩

/-- Packed operand B at width W (R13). -/
def Request.packedB (q : Request) (w : Width) : Packed w := ⟨headerOfPort w q.bH, q.bB⟩

/-- The value operand (R13): `v_mag` is MAGW bits, `v_scale` SCW bits read as `sint`. -/
def Request.value (c : Config) (q : Request) : Value where
  neg := q.vNeg == 1#1
  mag := q.vMag % 2 ^ c.magW
  scale := sintPort c q.vScale

/-- The new scale of a rescale, n = sint(ns) (R129). -/
def Request.newScale (c : Config) (q : Request) : Int := sintPort c q.ns

/-- `unscaled(v)` (R7); negative zero is zero (R70). -/
def unscaled (v : Value) : Int := if v.neg then -(v.mag : Int) else v.mag

end Sys2Proof.Machine
end

