-- ==== Sys2Proof/Machine/Flags.lean ====
section
/-! DEFINITION. The checked 64-bit primitives and their overflow flag (spec R110 to R113). The PDU has
no flag register: the flags live inside one operation and select its path (R17). -/

namespace Sys2Proof.Machine

/-- −2^63 ≤ n ≤ 2^63 − 1. -/
def fitsI64 (n : Int) : Bool := decide (-2 ^ 63 ≤ n ∧ n ≤ 2 ^ 63 - 1)

/-- What a checked primitive returns: the exact result, or the flag. With the flag there is no first
component, so nothing can read one (R110 to R112, U17; log 7). -/
inductive Checked where
  /-- ovf = 0, with the exact result. -/
  | fits (t : Int)
  /-- ovf = 1. -/
  | ovf
deriving DecidableEq, Repr

/-- The flag rule the three primitives share: ovf = 1 iff t > 2^63 − 1 or t < −2^63. -/
def checked (t : Int) : Checked := if fitsI64 t then .fits t else .ovf

/-- `addo64(x, y)` (R110). -/
def addo64 (x y : Int) : Checked := checked (x + y)

/-- `subo64(x, y)` (R111). -/
def subo64 (x y : Int) : Checked := checked (x - y)

/-- `mulo64(x, y)` (R112). -/
def mulo64 (x y : Int) : Checked := checked (x * y)

end Sys2Proof.Machine
end

