-- ==== Sys2Proof/Machine/Ops.lean ====
section
/-! DEFINITION. The operations the meanings share: building a packed value (spec R84 to R86, R116), the
response and how it stands on the port (R14, R16, R98), reporting an error (R153), and the two channels
(R23, R36, R170). -/

namespace Sys2Proof.Machine

/-! ## Building a packed value -/

/-- Scale normalization at encode (R84): for a scale ≤ 6, a negative scale is multiplied out. -/
def normalizeScale (u s : Int) : Int × Nat := if s < 0 then (u * pow10 (-s).toNat, 0) else (u, s.toNat)

/-- The header word trunc_4(s) ++ trunc_4(tag) ++ lanes (R60); empty at W = 64. -/
def headerWord (w : Width) (s tag lanes : Nat) : BitVec w.hb :=
  (BitVec.ofNat 4 s ++ BitVec.ofNat 4 tag ++ BitVec.ofNat (8 * nlOf w) lanes).setWidth w.hb

/-- The Compact layout (R62): tag 8, filler zero, body trunc_64(r). -/
def compact (w : Width) (s : Nat) (r : Int) : Packed w := ⟨headerWord w s 8 0, trunc64 r⟩

/-- The Extended layout (R63, R86): the last 8 bytes of u in the body, those before them in the low
lanes, the length in the tag. -/
def extended (w : Width) (s : Nat) (u : Int) : Packed w :=
  let L := tcLen u
  let B := tcBytes u L
  ⟨headerWord w s L (bytesToNat (B.take (L - 8))), BitVec.ofNat 64 (bytesToNat (B.drop (L - 8)))⟩

/-- `pack_W(u, s)` (R85, R86), W = 96 and 128. -/
def pack (c : Config) (w : Width) (u : Int) (s : Nat) : Except ErrorKind (Packed w) :=
  if digits u ≤ 18 then .ok (compact w s u)
  else if maxOf c w < u then .error .valueTooLarge
  else if u < minOf c w then .error .valueTooSmall
  else .ok (extended w s u)

/-- A range error of the re-encode step is reported as `ArithmeticOverflow` (R116, R151). -/
def overflowOfRange : ErrorKind → ErrorKind
  | .valueTooLarge => .arithmeticOverflow
  | .valueTooSmall => .arithmeticOverflow
  | k => k

/-- `repack_W(t, s)`, the slow path's last step (R116). -/
def repack (c : Config) (w : Width) (t : Int) (s : Nat) : Except ErrorKind (Packed w) :=
  if w = .w64 then
    if fitsI64 t then .ok ⟨0#_, trunc64 t⟩ else .error .arithmeticOverflow
  else (pack c w t s).mapError overflowOfRange

/-- The value model's form of (u, s) (R7, R98): zero has `neg` = 0. -/
def valueOf (u : Int) (s : Nat) : Value := ⟨decide (u < 0), u.natAbs, s⟩

/-! ## The response on the port (R14, R16, R98, R150, R153) -/

/-- The status code of an error kind (R150). -/
def ErrorKind.code : ErrorKind → BitVec 4
  | .scaleTooLarge => 1#4
  | .invalidScale => 2#4
  | .valueTooLarge => 3#4
  | .valueTooSmall => 4#4
  | .arithmeticOverflow => 5#4
  | .nonCanonicalOperand => 6#4
  | .illegalCommand => 7#4

/-- Every field zero; `st` = 0 is OK (R16, R150). -/
def Ports.zero : Ports := ⟨0#4, 0#64, 0#64, 0#1, 0, 0, 0#32⟩

/-- What stands on the response port: `st`, the fields the response gives meaning to, and zero in all
the others (R14, R16, R98, R153). -/
def Response.ports (c : Config) : Response → Ports
  | .packed _ p => { Ports.zero with rH := p.h.setWidth 64, rB := p.b }
  | .value v =>
    { Ports.zero with
      rvNeg := BitVec.ofBool v.neg
      rvMag := v.mag % 2 ^ c.magW
      rvScale := (BitVec.ofInt c.scW v.scale).toNat }
  | .scalar x => { Ports.zero with rS := x }
  | .err k => { Ports.zero with st := k.code }

/-! ## Answering a request -/

/-- The response to the request being answered joins the end of the response channel, so responses
keep the order of their requests (R23). Nothing else changes (R37). -/
def State.answer (s : State) (x : Response) : State := { s with responses := s.responses ++ [x] }

/-- `raise K`, what stands for taking an exception (R7, R153): the request is answered with the error
response of kind K; nothing is saved, no mode changes, control goes nowhere. There is no return from
it: the next request is answered as if this one had never been issued (R155). -/
def State.raise (s : State) (k : ErrorKind) : State := s.answer (.err k)

/-- The end of an operation (R7, R152): `return x` answers with x, `raise K` with the error. -/
def complete (s : State) : Except ErrorKind Response → Host.Outcome State Fault Refusal
  | .ok x => .next (s.answer x)
  | .error k => .next (s.raise k)

/-! ## The two channels (R23, R36, R170) -/

/-- `req_ready`: 0 while `rst` is 1 (R170), else 1 (log 5). -/
def State.reqReady (s : State) : Bool := !s.rst

/-- `req_valid`: the host offers a request (R23). -/
def State.reqValid (s : State) : Bool := !s.requests.isEmpty

/-- `rsp_valid`: a response is pending, and `rst` is 0 (R23, R170). -/
def State.rspValid (s : State) : Bool := !s.rst && !s.responses.isEmpty

/-- A step with `rst` = 1 (R170): every request accepted but not yet delivered is dropped; nothing is
accepted and nothing delivered. -/
def State.dropPending (s : State) : State := { s with responses := [] }

/-- The response channel: where `rsp_valid` and `rsp_ready` are both 1, the oldest response is
delivered (R23). -/
def State.deliver (s : State) : State :=
  if s.rspReady then
    match s.responses with
    | [] => s
    | x :: rest => { s with responses := rest, delivered := s.delivered ++ [x] }
  else s

/-- The request channel: where `req_valid` and `req_ready` are both 1, the request at the head is
accepted, its fields read as one sample (R23, R36). None where no request is offered. -/
def State.accept (s : State) : Option State :=
  match s.requests with
  | [] => none
  | q :: rest => some { s with requests := rest, req := q }

/-- The request channel with the command word `cmd` at its head: the offered request's command is
replaced, or, where none is offered, a request with that command and zero operands is offered. -/
def offerCommand (cmd : Cmd) : List Request → List Request
  | [] => [{ Request.zero with cmd := cmd }]
  | q :: rest => { q with cmd := cmd } :: rest

end Sys2Proof.Machine
end

