-- ==== Sys2Proof/Machine/Arith.lean ====
section
/-! DEFINITION. The arithmetic family (spec 41_arithmetic.md): ADD, SUB, NEG, RSC at the three widths,
each with its fast path on checked 64-bit integers and its exact slow path. -/

namespace Sys2Proof.Machine

/-- The operation of `addsub_W` (R117). -/
inductive AddOp where
  | add
  | sub
deriving DecidableEq, Repr

/-- `op` in ℤ. -/
def AddOp.exact : AddOp → Int → Int → Int
  | .add, x, y => x + y
  | .sub, x, y => x - y

/-- `op` as a checked primitive (R110, R111). -/
def AddOp.checked : AddOp → Int → Int → Checked
  | .add, x, y => addo64 x y
  | .sub, x, y => subo64 x y

/-- The fast path of ADD and SUB (R117 steps 1 to 4, R115): none where an operand is Extended or a
flag is raised. -/
def fastAddSub (op : AddOp) {w : Width} (a b : Packed w) : Option (Packed w) :=
  let na := unpack a
  let nb := unpack b
  let s := max na.2 nb.2
  if isCompact a && isCompact b then
    match mulo64 na.1 (pow10 (s - na.2)), mulo64 nb.1 (pow10 (s - nb.2)) with
    | .fits xa, .fits xb =>
      match op.checked xa xb with
      | .fits r => some (compact w s r)
      | .ovf => none
    | _, _ => none
  else none

/-- The slow path of ADD and SUB: exact in ℤ on the aligned integers, then re-encode (R116, R117). -/
def slowAddSub (c : Config) (op : AddOp) {w : Width} (a b : Packed w) : Except ErrorKind (Packed w) :=
  let na := unpack a
  let nb := unpack b
  let s := max na.2 nb.2
  repack c w (op.exact (na.1 * pow10 (s - na.2)) (nb.1 * pow10 (s - nb.2))) s

/-- `addsub_W(op, a, b)` (R117). -/
def addSub (c : Config) (op : AddOp) {w : Width} (a b : Packed w) : Except ErrorKind (Packed w) :=
  if canonical c a && canonical c b then
    match fastAddSub op a b with
    | some p => .ok p
    | none => slowAddSub c op a b
  else .error .nonCanonicalOperand

/-- `neg_W(a)` (R125). -/
def negate (c : Config) {w : Width} (a : Packed w) : Except ErrorKind (Packed w) :=
  if canonical c a then
    let n := unpack a
    if n.1 = 0 then .ok a
    else if isCompact a && decide (n.1 ≠ -2 ^ 63) then .ok ⟨a.h, trunc64 (-n.1)⟩
    else repack c w (-n.1) n.2
  else .error .nonCanonicalOperand

/-- The widening arm of `rsc_W` (R129): from scale s to n > s. -/
def widen (c : Config) {w : Width} (a : Packed w) (n : Nat) : Except ErrorKind (Packed w) :=
  let m := unpack a
  let slow := repack c w (m.1 * pow10 (n - m.2)) n
  if isCompact a then
    match mulo64 m.1 (pow10 (n - m.2)) with
    | .fits r => .ok (compact w n r)
    | .ovf => slow
  else slow

/-- `rsc_W(a, ns)` with n = sint(ns) (R129). -/
def rescale (c : Config) {w : Width} (a : Packed w) (n : Int) : Except ErrorKind (Packed w) :=
  if canonical c a then
    if n < 0 ∨ 6 < n then .error .invalidScale
    else if n = (unpack a).2 then .ok a
    else if n < (unpack a).2 then .error .invalidScale
    else widen c a n.toNat
  else .error .nonCanonicalOperand

/-- ADD.64 (R119). -/
def execAdd64 (s : State) : Host.Outcome State Fault Refusal :=
  complete s ((addSub s.cfg .add (s.req.packedA .w64) (s.req.packedB .w64)).map (Response.packed .w64))

/-- ADD.96 (R120). -/
def execAdd96 (s : State) : Host.Outcome State Fault Refusal :=
  complete s ((addSub s.cfg .add (s.req.packedA .w96) (s.req.packedB .w96)).map (Response.packed .w96))

/-- ADD.128 (R121). -/
def execAdd128 (s : State) : Host.Outcome State Fault Refusal :=
  complete s ((addSub s.cfg .add (s.req.packedA .w128) (s.req.packedB .w128)).map (Response.packed .w128))

/-- SUB.64 (R122). -/
def execSub64 (s : State) : Host.Outcome State Fault Refusal :=
  complete s ((addSub s.cfg .sub (s.req.packedA .w64) (s.req.packedB .w64)).map (Response.packed .w64))

/-- SUB.96 (R123). -/
def execSub96 (s : State) : Host.Outcome State Fault Refusal :=
  complete s ((addSub s.cfg .sub (s.req.packedA .w96) (s.req.packedB .w96)).map (Response.packed .w96))

/-- SUB.128 (R124). -/
def execSub128 (s : State) : Host.Outcome State Fault Refusal :=
  complete s ((addSub s.cfg .sub (s.req.packedA .w128) (s.req.packedB .w128)).map (Response.packed .w128))

/-- NEG.64 (R126). -/
def execNeg64 (s : State) : Host.Outcome State Fault Refusal :=
  complete s ((negate s.cfg (s.req.packedA .w64)).map (Response.packed .w64))

/-- NEG.96 (R127). -/
def execNeg96 (s : State) : Host.Outcome State Fault Refusal :=
  complete s ((negate s.cfg (s.req.packedA .w96)).map (Response.packed .w96))

/-- NEG.128 (R128). -/
def execNeg128 (s : State) : Host.Outcome State Fault Refusal :=
  complete s ((negate s.cfg (s.req.packedA .w128)).map (Response.packed .w128))

/-- RSC.64 (R130). -/
def execRsc64 (s : State) : Host.Outcome State Fault Refusal :=
  complete s ((rescale s.cfg (s.req.packedA .w64) (s.req.newScale s.cfg)).map (Response.packed .w64))

/-- RSC.96 (R131). -/
def execRsc96 (s : State) : Host.Outcome State Fault Refusal :=
  complete s ((rescale s.cfg (s.req.packedA .w96) (s.req.newScale s.cfg)).map (Response.packed .w96))

/-- RSC.128 (R132). -/
def execRsc128 (s : State) : Host.Outcome State Fault Refusal :=
  complete s ((rescale s.cfg (s.req.packedA .w128) (s.req.newScale s.cfg)).map (Response.packed .w128))

end Sys2Proof.Machine
end

