-- ==== Sys2Proof/Machine/Codec.lean ====
section
/-! DEFINITION. The codec family (spec 40_codec.md): ENC and DEC at the three widths. -/

namespace Sys2Proof.Machine

/-- `enc_W(v)`, W = 96 and 128 (R88): the scale test on the input scale, then normalize, then pack. -/
def encTagged (c : Config) (w : Width) (v : Value) : Except ErrorKind (Packed w) :=
  if 6 < v.scale then .error .scaleTooLarge
  else
    let n := normalizeScale (unscaled v) v.scale
    pack c w n.1 n.2

/-- ENC.64 (R91): the value times 10^6, as a 64-bit mantissa. -/
def encMantissa (v : Value) : Except ErrorKind (Packed .w64) :=
  if 6 < v.scale then .error .scaleTooLarge
  else
    let n := normalizeScale (unscaled v) v.scale
    let m := n.1 * pow10 (6 - n.2)
    if 2 ^ 63 - 1 < m then .error .valueTooLarge
    else if m < -2 ^ 63 then .error .valueTooSmall
    else .ok ⟨0#_, trunc64 m⟩

/-- DEC.W (R93, R94, R95): a canonical operand read back as a value. -/
def dec (c : Config) {w : Width} (a : Packed w) : Except ErrorKind Value :=
  if canonical c a then
    let n := unpack a
    .ok (valueOf n.1 n.2)
  else .error .nonCanonicalOperand

/-- ENC.64 (R91). -/
def execEnc64 (s : State) : Host.Outcome State Fault Refusal :=
  complete s ((encMantissa (s.req.value s.cfg)).map (Response.packed .w64))

/-- ENC.96 (R89). -/
def execEnc96 (s : State) : Host.Outcome State Fault Refusal :=
  complete s ((encTagged s.cfg .w96 (s.req.value s.cfg)).map (Response.packed .w96))

/-- ENC.128 (R90). -/
def execEnc128 (s : State) : Host.Outcome State Fault Refusal :=
  complete s ((encTagged s.cfg .w128 (s.req.value s.cfg)).map (Response.packed .w128))

/-- DEC.64 (R95). -/
def execDec64 (s : State) : Host.Outcome State Fault Refusal :=
  complete s ((dec s.cfg (s.req.packedA .w64)).map Response.value)

/-- DEC.96 (R93). -/
def execDec96 (s : State) : Host.Outcome State Fault Refusal :=
  complete s ((dec s.cfg (s.req.packedA .w96)).map Response.value)

/-- DEC.128 (R94). -/
def execDec128 (s : State) : Host.Outcome State Fault Refusal :=
  complete s ((dec s.cfg (s.req.packedA .w128)).map Response.value)

end Sys2Proof.Machine
end

