-- ==== Sys2Proof/Machine/Compare.lean ====
section
/-! DEFINITION. The comparison family (spec 42_compare.md): EQ and HASH on raw bits, CMP on numbers, at
the three widths. -/

namespace Sys2Proof.Machine

/-- `eq_W(a, b)` as a scalar: 1 iff the raw bits agree (R135). -/
def eqScalar {w : Width} (a b : Packed w) : Scalar := if a = b then 1#32 else 0#32

/-- `cmp_W(a, b)`: the sign of the difference of the aligned integers, in ℤ (R139, R115). -/
def cmpSign {w : Width} (a b : Packed w) : Int :=
  let na := unpack a
  let nb := unpack b
  let s := max na.2 nb.2
  (na.1 * pow10 (s - na.2) - nb.1 * pow10 (s - nb.2)).sign

/-- CMP.W (R140, R141, R142): the sign, sign-extended to 32 bits. -/
def compareNumbers (c : Config) {w : Width} (a b : Packed w) : Except ErrorKind Scalar :=
  if canonical c a && canonical c b then .ok (BitVec.ofInt 32 (cmpSign a b))
  else .error .nonCanonicalOperand

/-- `hash_W(a)` (R143): the build's hash function of the raw bits. -/
def hashScalar : {w : Width} → Packed w → Scalar
  | .w64, a => Config.hashfn64 a.b
  | .w96, a => Config.hashfn96 a.h a.b
  | .w128, a => Config.hashfn128 a.h a.b

/-- CMP.64 (R140). -/
def execCmp64 (s : State) : Host.Outcome State Fault Refusal :=
  complete s ((compareNumbers s.cfg (s.req.packedA .w64) (s.req.packedB .w64)).map Response.scalar)

/-- CMP.96 (R141). -/
def execCmp96 (s : State) : Host.Outcome State Fault Refusal :=
  complete s ((compareNumbers s.cfg (s.req.packedA .w96) (s.req.packedB .w96)).map Response.scalar)

/-- CMP.128 (R142). -/
def execCmp128 (s : State) : Host.Outcome State Fault Refusal :=
  complete s ((compareNumbers s.cfg (s.req.packedA .w128) (s.req.packedB .w128)).map Response.scalar)

/-- EQ.64 (R136). -/
def execEq64 (s : State) : Host.Outcome State Fault Refusal :=
  complete s (.ok (.scalar (eqScalar (s.req.packedA .w64) (s.req.packedB .w64))))

/-- EQ.96 (R137). -/
def execEq96 (s : State) : Host.Outcome State Fault Refusal :=
  complete s (.ok (.scalar (eqScalar (s.req.packedA .w96) (s.req.packedB .w96))))

/-- EQ.128 (R138). -/
def execEq128 (s : State) : Host.Outcome State Fault Refusal :=
  complete s (.ok (.scalar (eqScalar (s.req.packedA .w128) (s.req.packedB .w128))))

/-- HASH.64 (R144). -/
def execHash64 (s : State) : Host.Outcome State Fault Refusal :=
  complete s (.ok (.scalar (hashScalar (s.req.packedA .w64))))

/-- HASH.96 (R145). -/
def execHash96 (s : State) : Host.Outcome State Fault Refusal :=
  complete s (.ok (.scalar (hashScalar (s.req.packedA .w96))))

/-- HASH.128 (R146). -/
def execHash128 (s : State) : Host.Outcome State Fault Refusal :=
  complete s (.ok (.scalar (hashScalar (s.req.packedA .w128))))

end Sys2Proof.Machine
end

