-- ==== Sys2Proof/Machine/Dispatch.lean ====
section
/-! DEFINITION. One arm per operation of the opcode table (spec R52, R53). -/

namespace Sys2Proof.Machine

/-- The meaning of an operation on the sampled request (R53). -/
def exec (i : Instr) (s : State) : Host.Outcome State Fault Refusal :=
  match i with
  | .enc64 => Sys2Proof.Machine.execEnc64 s
  | .dec64 => Sys2Proof.Machine.execDec64 s
  | .add64 => Sys2Proof.Machine.execAdd64 s
  | .sub64 => Sys2Proof.Machine.execSub64 s
  | .neg64 => Sys2Proof.Machine.execNeg64 s
  | .rsc64 => Sys2Proof.Machine.execRsc64 s
  | .cmp64 => Sys2Proof.Machine.execCmp64 s
  | .eq64 => Sys2Proof.Machine.execEq64 s
  | .hash64 => Sys2Proof.Machine.execHash64 s
  | .enc96 => Sys2Proof.Machine.execEnc96 s
  | .dec96 => Sys2Proof.Machine.execDec96 s
  | .add96 => Sys2Proof.Machine.execAdd96 s
  | .sub96 => Sys2Proof.Machine.execSub96 s
  | .neg96 => Sys2Proof.Machine.execNeg96 s
  | .rsc96 => Sys2Proof.Machine.execRsc96 s
  | .cmp96 => Sys2Proof.Machine.execCmp96 s
  | .eq96 => Sys2Proof.Machine.execEq96 s
  | .hash96 => Sys2Proof.Machine.execHash96 s
  | .enc128 => Sys2Proof.Machine.execEnc128 s
  | .dec128 => Sys2Proof.Machine.execDec128 s
  | .add128 => Sys2Proof.Machine.execAdd128 s
  | .sub128 => Sys2Proof.Machine.execSub128 s
  | .neg128 => Sys2Proof.Machine.execNeg128 s
  | .rsc128 => Sys2Proof.Machine.execRsc128 s
  | .cmp128 => Sys2Proof.Machine.execCmp128 s
  | .eq128 => Sys2Proof.Machine.execEq128 s
  | .hash128 => Sys2Proof.Machine.execHash128 s

end Sys2Proof.Machine
end

