-- ==== Sys2Proof/Machine/Step.lean ====
section
/-! DEFINITION. One step of the PDU at transaction level (spec R23, R53, R170), and how a command is
placed where the next step takes it. -/

namespace Sys2Proof.Machine

/-- One step. With `rst` = 1 nothing is accepted or delivered and what is pending is dropped (R170).
Otherwise the response channel delivers at most one response, and the request channel accepts at most
one request, which is answered in the same step: by the meaning of its command, or with
`IllegalCommand` where the command is reserved (R53). The latency LAT is not modelled (R174, log 4). -/
def step (s : State) : Host.Outcome State Fault Refusal :=
  if s.rst then .next s.dropPending
  else
    match s.deliver.accept with
    | none => .next s.deliver
    | some t =>
      match decode t.req.cmd with
      | .ok i => exec i t
      | .error _ => .next (t.raise .illegalCommand)

/-- `s` with the command word of the opcode-table word `w` on the request port, and `rst` = 0, so that
the next step accepts and answers it. It stands for the host offering a request (R12, log 8). -/
def State.withFetchWord (s : State) (nbits w : Nat) : State :=
  { s with rst := false, requests := offerCommand (cmdOfTableWord nbits w) s.requests }

end Sys2Proof.Machine
end

