-- ==== Sys2Proof/WellFormed.lean ====
section
/-! DEFINITION. Which builds and requests are well formed (spec R6, R13). An operation has no field
(R70), so no term of Instr is ill formed; what can be ill formed is the build and the words on the
ports whose width the build sets. -/

namespace Sys2Proof

/-- The constraints of R6 on the parameters of a build. -/
abbrev Config.Legal (c : Config) : Prop :=
  (2 ^ 63 - 1 ≤ c.max96 ∧ c.max96 ≤ 2 ^ 87 - 1) ∧ (-2 ^ 87 ≤ c.min96 ∧ c.min96 ≤ -2 ^ 63) ∧
  (2 ^ 63 - 1 ≤ c.max128 ∧ c.max128 ≤ 2 ^ 119 - 1) ∧ (-2 ^ 119 ≤ c.min128 ∧ c.min128 ≤ -2 ^ 63) ∧
  120 ≤ c.magW ∧ 4 ≤ c.scW

namespace Machine

/-- The words on the ports of MAGW and SCW bits fit them (R13). -/
abbrev Request.Fits (c : Config) (q : Request) : Prop :=
  q.vMag < 2 ^ c.magW ∧ q.vScale < 2 ^ c.scW ∧ q.ns < 2 ^ c.scW

end Machine

end Sys2Proof
end

