-- ==== Sys2Proof/Safety.lean ====
section
/-! DEFINITION. The terms claims are stated in: the packed image of a number (spec R87), the range
of a width (R6), what every state of a run keeps, and what counts as a safe step. -/

namespace Sys2Proof.Spec

open Sys2Proof.Machine

/-- The tag of the packed image of u (R87): 8 where u fits 64 bits, else its byte length. -/
def imageTag (u : Int) : Nat := if -2 ^ 63 ≤ u ∧ u ≤ 2 ^ 63 - 1 then 8 else tcLen u

/-- p is the packed image of (u, s) at width w, by the closed form of R87, in the field accessors of
R60: `b` = trunc_64(u), and at the tagged widths `sc` = s, the tag as above, and `lanes` =
zext(trunc_{8(tag−8)}(floor(u / 2^64))). At W = 64 the body is the whole word (R61). -/
def IsImage (w : Width) (u : Int) (s : Nat) (p : Packed w) : Prop :=
  p.b = BitVec.ofInt 64 u ∧
  (w ≠ .w64 → p.sc.toNat = s ∧ p.tag.toNat = imageTag u ∧
    (p.lanes.toNat : Int) = u / 2 ^ 64 % 2 ^ (8 * (imageTag u - 8)))

/-- u is in the range of width w (R6). -/
def InRange (c : Config) (w : Width) (u : Int) : Prop := minOf c w ≤ u ∧ u ≤ maxOf c w

end Sys2Proof.Spec

namespace Sys2Proof.Machine

/-- A response the PDU can give (R98, R171, R67): a packed result is canonical at its width, so it may
be an operand; a value result has a scale of 0 to 6, a magnitude that fits the port, and no negative
zero. -/
def Response.Sound (c : Config) : Response → Prop
  | .packed _ p => canonical c p = true
  | .value v => (0 ≤ v.scale ∧ v.scale ≤ 6) ∧ v.mag < 2 ^ c.magW ∧ (v.mag = 0 → v.neg = false)
  | .scalar _ => True
  | .err _ => True

/-- The invariant of the machine: a legal build, requests that fit their ports, sound responses. -/
structure State.Inv (s : State) : Prop where
  legal : s.cfg.Legal
  offered_fit : ∀ q ∈ s.requests, q.Fits s.cfg
  sample_fits : s.req.Fits s.cfg
  pending_sound : ∀ x ∈ s.responses, x.Sound s.cfg
  delivered_sound : ∀ x ∈ s.delivered, x.Sound s.cfg

/-- A step is safe: it answers a next state, so the PDU neither faults nor refuses (R53, R152). -/
def State.StepsOn (s : State) : Prop := ∃ t, step s = .next t

end Sys2Proof.Machine
end

