-- ==== Sys2Proof/Certificates/Slice0/Obligations.lean ====
section
/-! DEFINITION. The statements for the provers, from the numbered rules of the spec. -/

open Sys2Proof Sys2Proof.Machine

namespace Sys2Proof.Spec

/-- The number u × 10^(−s) a pair (u, s) stands for (R7, R114). -/
def number (u : Int) (s : Nat) : ℚ := (u : ℚ) / 10 ^ s

/-- The number a packed value stands for (R114). -/
def numberOf {w : Width} (p : Packed w) : ℚ := number (unpack p).1 (unpack p).2

/-- The number a value stands for: unscaled(v) × 10^(−scale), the scale of either sign (R7). -/
def numberOfValue (v : Value) : ℚ := (unscaled v : ℚ) * (10 : ℚ) ^ (-v.scale)

/-- The operation of the opcode table that an `AddOp` is. -/
def opOf : AddOp → Op
  | .add => .add
  | .sub => .sub

/-- A state after the request at the head of the channel was accepted (R23, R36). -/
def taken (s : State) (q : Request) (rest : List Request) : State :=
  { s.deliver with requests := rest, req := q }

/-- A command word is reserved (R53). -/
def Reserved (c : Cmd) : Prop := cmdRsv c ≠ 0#2 ∨ cmdWsel c = 3#2 ∨ 9 ≤ (cmdOp c).toNat

/-- Two requests agree on every field the operation reads at its width (R13, R15). -/
def AgreeOnReads (i : Instr) (q r : Request) : Prop :=
  (i.op ≠ .enc → q.packedA i.width = r.packedA i.width) ∧
  (i.op = .add ∨ i.op = .sub ∨ i.op = .cmp ∨ i.op = .eq → q.packedB i.width = r.packedB i.width) ∧
  (i.op = .enc → q.vNeg = r.vNeg ∧ q.vMag = r.vMag ∧ q.vScale = r.vScale) ∧
  (i.op = .rsc → q.ns = r.ns)

/-- The error kinds an operation may report (R150, R151). -/
def MayRaise (i : Instr) : ErrorKind → Prop
  | .scaleTooLarge => i.op = .enc
  | .invalidScale => i.op = .rsc
  | .valueTooLarge => i.op = .enc
  | .valueTooSmall => i.op = .enc
  | .arithmeticOverflow => i.op = .add ∨ i.op = .sub ∨ i.op = .neg ∨ i.op = .rsc
  | .nonCanonicalOperand =>
    i.width ≠ .w64 ∧ i.op ≠ .enc ∧ i.op ≠ .eq ∧ i.op ≠ .hash
  | .illegalCommand => False

end Sys2Proof.Spec

open Sys2Proof.Spec

/-! ## Commands and the step -/

/-- The command at the head of the request channel is decoded and its operation runs on the sampled
request; around it the step delivers at most one response first (R23, R53). That delivery, accept and answer
fall in one step, and that the PDU is always ready outside reset, is the model's choice (logs 4, 5). -/
def Obligations.StepRunsTheDecodedCommand : Prop :=
  ∀ (s : State) (q : Request) (rest : List Request) (i : Instr),
    s.rst = false → s.requests = q :: rest → decode q.cmd = .ok i →
    step s = exec i (taken s q rest)

/-- R53: a reserved command is answered with IllegalCommand whatever the other fields hold; any
other command is answered by its operation; there is always exactly one response. That the step
delivers, accepts and answers at once, and is always ready, is the model's choice (logs 4, 5). -/
def Obligations.ReservedCommandsAnswerIllegalCommand : Prop :=
  ∀ (s : State) (q : Request) (rest : List Request), s.rst = false → s.requests = q :: rest →
    (Reserved q.cmd → step s = .next ((taken s q rest).answer (.err .illegalCommand))) ∧
    (¬ Reserved q.cmd → ∃ i x, encode i = q.cmd ∧ exec i (taken s q rest) = .next ((taken s q rest).answer x) ∧
      step s = .next ((taken s q rest).answer x))

/-- Words of the opcode table, written out as `RSV`, `WSEL`, `OP` (R50, R51, R52). -/
def Obligations.CommandWordsDecodeToTheirOperations : Prop :=
  decode 0b00000000#8 = .ok .enc64 ∧ decode 0b00010001#8 = .ok .dec96 ∧
  decode 0b00100010#8 = .ok .add128 ∧ decode 0b00000011#8 = .ok .sub64 ∧
  decode 0b00010100#8 = .ok .neg96 ∧ decode 0b00100101#8 = .ok .rsc128 ∧
  decode 0b00000110#8 = .ok .cmp64 ∧ decode 0b00010111#8 = .ok .eq96 ∧
  decode 0b00101000#8 = .ok .hash128 ∧ decode 0b00001001#8 = .error .reservedOp ∧
  decode 0b00110000#8 = .error .reservedWidth ∧ decode 0b01000000#8 = .error .reservedBits

/-- Every operation has one command word and every defined command word one operation (R50 to R52). -/
def Obligations.EncodeAndDecodeAgree : Prop :=
  (∀ i, decode (encode i) = .ok i) ∧ (∀ c i, decode c = .ok i → c = encode i) ∧
  (∀ c, (∃ i, decode c = .ok i) ↔ ¬ Reserved c)

/-- What an operation changes: one response joins the end of the response channel, and nothing else
(R11, R23, R37, R53); it never faults or refuses. For all 27 operations. -/
def Obligations.EveryOperationAnswersOnceAndChangesNothingElse : Prop :=
  ∀ (i : Instr) (s : State), ∃ t, exec i s = .next t ∧ (∃ x, t.responses = s.responses ++ [x]) ∧
    t.cfg = s.cfg ∧ t.rst = s.rst ∧ t.requests = s.requests ∧ t.req = s.req ∧
    t.rspReady = s.rspReady ∧ t.delivered = s.delivered

/-- With no request offered and `rst` = 0 a step only delivers; with a response pending and `rsp_ready`
= 1 it delivers the oldest (R23). One delivery a step is the model's choice (log 4). -/
def Obligations.ResponseChannelDeliversOldestFirst : Prop :=
  ∀ s : State, s.rst = false → s.requests = [] →
    (s.rspReady = false ∨ s.responses = [] → step s = .next s) ∧
    (∀ x rest, s.rspReady = true → s.responses = x :: rest →
      step s = .next { s with responses := rest, delivered := s.delivered ++ [x] })

/-- R170: while `rst` is 1, `req_ready` and `rsp_valid` are 0 and what was accepted but not delivered is
dropped; nothing else changes. After it returns to 0 the PDU is ready, nothing is pending, and the
first request is answered like any other: by its operation, or IllegalCommand where it is reserved.
The model's choice: that the host's side of the channels is left as it is under reset (log 10), and
that the first request is taken and answered in the first step after it (logs 4, 5). -/
def Obligations.ResetDropsUndeliveredResponses : Prop :=
  ∀ s : State, s.rst = true → s.reqReady = false ∧ s.rspValid = false ∧
    ∃ t, step s = .next t ∧ t = { s with responses := [] } ∧
      ∀ u, u = { t with rst := false } → u.reqReady = true ∧ u.rspValid = false ∧
        ∀ q rest, u.requests = q :: rest →
          (∀ i, decode q.cmd = .ok i → step u = exec i { u with requests := rest, req := q }) ∧
          (Reserved q.cmd →
            step u = .next (State.answer { u with requests := rest, req := q } (.err .illegalCommand)))

/-- The machine right after reset: no response pending, `rst` back to 0, the defaults of R6 (R22, R170).
The other fields are the model's choice (log 6) and are not stated. -/
def Obligations.ResetStateHasNothingPending : Prop :=
  State.reset.responses = [] ∧ State.reset.rst = false ∧ State.reset.reqReady = true ∧
  State.reset.rspValid = false ∧ State.reset.cfg.max96 = 154742504910672534362390527 ∧
  State.reset.cfg.min96 = -154742504910672534362390528 ∧
  State.reset.cfg.max128 = 664613997892457936451903530140172287 ∧
  State.reset.cfg.min128 = -664613997892457936451903530140172288 ∧
  State.reset.cfg.magW = 128 ∧ State.reset.cfg.scW = 8

/-! ## Whole-machine properties -/

/-- The response is a function of the build and the request alone: not of other requests, of earlier
responses or errors, or of what is pending (R23, R40, R155). That the step delivers, accepts and
answers at once, and is always ready, is the model's choice (logs 4, 5). -/
def Obligations.ResponseIsAFunctionOfTheRequestAlone : Prop :=
  ∃ f : Config → Request → Response, ∀ (s : State) (q : Request) (rest : List Request),
    s.rst = false → s.requests = q :: rest →
    step s = .next ((taken s q rest).answer (f s.cfg q))

/-- Every accepted request produces exactly one response, and responses keep the order of their requests
(R23, R175): while `rst` is 0, as many steps as there are requests offered answer them all. The bound
of one step a request is the model's choice (logs 4, 5). -/
def Obligations.EveryRequestIsAnsweredOnceInOrder : Prop :=
  ∃ f : Config → Request → Response, ∀ s : State, s.rst = false →
    ∃ t : State, Sys2Proof.core.run s.requests.length s = .next t ∧ t.requests = [] ∧
      t.delivered ++ t.responses = s.delivered ++ s.responses ++ s.requests.map (f s.cfg)

/-- A step never stops, never changes the parameters of the build, and never changes a delivered
response (R11, R18, R53). -/
def Obligations.StepsNeverStopAndKeepWhatWasDelivered : Prop :=
  ∀ s : State, ∃ t, step s = .next t ∧ t.cfg = s.cfg ∧ t.rst = s.rst ∧ t.rspReady = s.rspReady ∧
    s.delivered <+: t.delivered ∧ t.requests <:+ s.requests

/-- Every step keeps the invariant: every packed response is canonical at its width, so it may be used
as an operand, and every value response fits its port (R67, R98, R171). -/
def Obligations.EveryStepKeepsResponsesSound : Prop :=
  ∀ s t : State, s.Inv → step s = .next t → t.Inv

/-- The invariant holds right after reset. -/
def Obligations.ResponsesSoundAtReset : Prop := State.reset.Inv

/-- A request field an operation does not read has no effect on the response (R15, R16). -/
def Obligations.UnreadRequestFieldsHaveNoEffect : Prop :=
  ∀ (i : Instr) (s t : State), s.cfg = t.cfg → AgreeOnReads i s.req t.req →
    ∃ x, exec i s = .next (s.answer x) ∧ exec i t = .next (t.answer x)

/-- Which operation may report which error (R150, R151): ENC alone reports the value errors, the
overflow detections inside an operation surface as ArithmeticOverflow or not at all, W = 64 never
reports NonCanonicalOperand, and EQ and HASH report nothing. -/
def Obligations.OperationsReportOnlyTheirOwnErrors : Prop :=
  ∀ (i : Instr) (s : State) (k : ErrorKind), s.cfg.Legal →
    exec i s = .next (s.answer (.err k)) → MayRaise i k

/-! ## The response port -/

/-- R150, R153: an error response has `st` = the code of its kind and every other field zero. -/
def Obligations.ErrorResponsesCarryOnlyTheCode : Prop :=
  (∀ (c : Config) (k : ErrorKind), (Response.err k).ports c =
    { st := k.code, rH := 0#64, rB := 0#64, rvNeg := 0#1, rvMag := 0, rvScale := 0, rS := 0#32 }) ∧
  ErrorKind.code .scaleTooLarge = 1#4 ∧ ErrorKind.code .invalidScale = 2#4 ∧
  ErrorKind.code .valueTooLarge = 3#4 ∧ ErrorKind.code .valueTooSmall = 4#4 ∧
  ErrorKind.code .arithmeticOverflow = 5#4 ∧ ErrorKind.code .nonCanonicalOperand = 6#4 ∧
  ErrorKind.code .illegalCommand = 7#4

/-- R14, R16: an OK response has `st` = 0, its own result on the port (a 96-bit header word in the low
32 bits, none at W = 64) and zero in the fields it gives no meaning to. -/
def Obligations.ResultsStandOnTheirOwnPorts : Prop :=
  ∀ c : Config,
    (∀ p : Packed .w64, (Response.packed .w64 p).ports c =
      { st := 0#4, rH := 0#64, rB := p.b, rvNeg := 0#1, rvMag := 0, rvScale := 0, rS := 0#32 }) ∧
    (∀ p : Packed .w96, (Response.packed .w96 p).ports c =
      { st := 0#4, rH := 0#32 ++ p.h, rB := p.b, rvNeg := 0#1, rvMag := 0, rvScale := 0, rS := 0#32 }) ∧
    (∀ p : Packed .w128, (Response.packed .w128 p).ports c =
      { st := 0#4, rH := p.h, rB := p.b, rvNeg := 0#1, rvMag := 0, rvScale := 0, rS := 0#32 }) ∧
    (∀ x : Scalar, (Response.scalar x).ports c =
      { st := 0#4, rH := 0#64, rB := 0#64, rvNeg := 0#1, rvMag := 0, rvScale := 0, rS := x })

/-! ## The functions of the external math library -/

/-- R81: `digits(n)` is the least d ≥ 1 with |n| < 10^d. -/
def Obligations.DigitsIsTheLeastDecimalLength : Prop :=
  ∀ n : Int, 1 ≤ digits n ∧ |n| < 10 ^ digits n ∧ ∀ d, 1 ≤ d → |n| < 10 ^ d → digits n ≤ d

/-- R82: `tc_len(n)` is the least L ≥ 1 with −2^(8L−1) ≤ n ≤ 2^(8L−1) − 1. -/
def Obligations.ByteLengthIsTheShortest : Prop :=
  ∀ n : Int, 1 ≤ tcLen n ∧ (-2 ^ (8 * tcLen n - 1) ≤ n ∧ n ≤ 2 ^ (8 * tcLen n - 1) - 1) ∧
    ∀ L, 1 ≤ L → -2 ^ (8 * L - 1) ≤ n → n ≤ 2 ^ (8 * L - 1) - 1 → tcLen n ≤ L

/-- R83: the bytes of `tc_bytes`, that `tc_value` reads them back, and when a byte array is minimal. -/
def Obligations.TwosComplementBytesReadBack : Prop :=
  (∀ (n : Int) (L : Nat), 1 ≤ L → -2 ^ (8 * L - 1) ≤ n → n ≤ 2 ^ (8 * L - 1) - 1 →
    (tcBytes n L).length = L ∧
    (∀ (i : Nat) (x : Byte), (tcBytes n L)[i]? = some x →
      (x.toNat : Int) = n % 2 ^ (8 * L) / 2 ^ (8 * (L - 1 - i)) % 256) ∧
    tcValue (tcBytes n L) = n) ∧
  (∀ B : List Byte, 1 ≤ B.length →
    (B = tcBytes (tcValue B) (tcLen (tcValue B)) ↔ minimalBytes B = true) ∧
    (minimalBytes B = true ↔ B.length = 1 ∨
      ∀ b0 b1 : Byte, B[0]? = some b0 → B[1]? = some b1 →
        ¬ (b0 = 0x00#8 ∧ b1.toNat < 0x80) ∧ ¬ (b0 = 0xFF#8 ∧ 0x80 ≤ b1.toNat)))

/-! ## The packed formats -/

/-- R60: the places of `sc`, `tag` and the lanes in the header word, at both tagged widths. -/
def Obligations.HeaderFieldsStandWhereTheFormatSays : Prop :=
  (∀ (s t : BitVec 4) (l : BitVec 24) (b : Word64),
    Packed.sc (w := .w96) ⟨s ++ t ++ l, b⟩ = s ∧ Packed.tag (w := .w96) ⟨s ++ t ++ l, b⟩ = t ∧
    Packed.lanes (w := .w96) ⟨s ++ t ++ l, b⟩ = l ∧
    ∀ k < 3, Packed.lane (w := .w96) ⟨s ++ t ++ l, b⟩ k = l.extractLsb' (8 * k) 8) ∧
  (∀ (s t : BitVec 4) (l : BitVec 56) (b : Word64),
    Packed.sc (w := .w128) ⟨s ++ t ++ l, b⟩ = s ∧ Packed.tag (w := .w128) ⟨s ++ t ++ l, b⟩ = t ∧
    Packed.lanes (w := .w128) ⟨s ++ t ++ l, b⟩ = l ∧
    ∀ k < 7, Packed.lane (w := .w128) ⟨s ++ t ++ l, b⟩ k = l.extractLsb' (8 * k) 8)

/-- R74: the wire fields of a packed value are its two words, both ways, and nothing is checked. -/
def Obligations.WireFieldsAreTheTwoWords : Prop :=
  ∀ (w : Width) (p : Packed w), toFields p = (p.h, p.b) ∧ fromFields (toFields p) = p ∧
    ∀ f : BitVec w.hb × Word64, toFields (fromFields f : Packed w) = f

/-- R65: an integer of 19 digits that fits 64 bits takes the Extended path with 8 bytes; its image there is
bit for bit the one the Compact layout gives it, and it is read back from there. -/
def Obligations.ExtendedOfEightBytesIsTheCompactImage : Prop :=
  ∀ (c : Config) (w : Width) (u : Int) (s : Nat), c.Legal → w ≠ .w64 → s ≤ 6 → digits u = 19 →
    -2 ^ 63 ≤ u → u ≤ 2 ^ 63 - 1 →
    pack c w u s = .ok (extended w s u) ∧
    tcLen u = 8 ∧ extended w s u = compact w s u ∧ (extended w s u).tag = 8#4 ∧
    (extended w s u).lanes = 0#_ ∧ (extended w s u).b = BitVec.ofInt 64 u ∧
    unpack (extended w s u) = (u, s)

/-- R32: where the bytes B of an Extended magnitude stand: B[L−8+j] in the body word from the top down,
B[L−9] in the lowest lane of the header word, B[L−10] in the next, zero in the unused lanes; so lanes
and body side by side are B read as one big-endian number. -/
def Obligations.ExtendedBytesStandRightAligned : Prop :=
  ∀ (w : Width) (u : Int) (s : Nat), w ≠ .w64 → 8 ≤ tcLen u → tcLen u ≤ lmaxOf w →
    (∀ j < 8, some ((extended w s u).b.extractLsb' (8 * (7 - j)) 8) =
      (tcBytes u (tcLen u))[tcLen u - 8 + j]?) ∧
    (∀ k < tcLen u - 8, some ((extended w s u).h.extractLsb' (8 * k) 8) =
      (tcBytes u (tcLen u))[tcLen u - 9 - k]?) ∧
    (∀ k, tcLen u - 8 ≤ k → k < nlOf w → (extended w s u).h.extractLsb' (8 * k) 8 = 0#8) ∧
    (extended w s u).lanes.toNat * 2 ^ 64 + (extended w s u).b.toNat = bytesToNat (tcBytes u (tcLen u))

/-- R66, R68: what makes a packed pattern reserved, complete: at W = 64 nothing does. -/
def Obligations.ReservedPatternsAreTheseAndNoOthers : Prop :=
  (∀ (c : Config) (p : Packed .w64), canonical c p = true) ∧
  (∀ (c : Config) (w : Width) (p : Packed w), w ≠ .w64 →
    (canonical c p = false ↔
      7 ≤ p.sc.toNat ∨ p.tag.toNat ≤ 7 ∨ lmaxOf w < p.tag.toNat ∨
      (p.tag = 8#4 ∧ p.lanes ≠ 0#_) ∨
      (9 ≤ p.tag.toNat ∧ p.tag.toNat ≤ lmaxOf w ∧
        (2 ^ (8 * (p.tag.toNat - 8)) ≤ p.lanes.toNat ∨
          minimalBytes (p.magBytes (p.tag.toNat - 8)) = false ∨
          ¬ InRange c w (tcValue (p.magBytes (p.tag.toNat - 8))))))) ∧
  (∀ (c : Config) (w : Width) (p : Packed w), w ≠ .w64 → c.Legal → p.tag.toNat ≤ lmaxOf w →
    9 ≤ p.tag.toNat → minOf c w = -2 ^ (8 * lmaxOf w - 1) → maxOf c w = 2 ^ (8 * lmaxOf w - 1) - 1 →
    InRange c w (tcValue (p.magBytes (p.tag.toNat - 8))))

/-- R92: what `unpack_W` reads, and that it reads the magnitude bytes of R66. -/
def Obligations.UnpackReadsTheMagnitudeBytes : Prop :=
  (∀ p : Packed .w64, unpack p = (p.b.toInt, 6)) ∧
  (∀ (w : Width) (p : Packed w), w ≠ .w64 → (unpack p).2 = p.sc.toNat ∧
    (p.tag = 8#4 → (unpack p).1 = p.b.toInt) ∧
    (9 ≤ p.tag.toNat → p.tag.toNat ≤ lmaxOf w →
      (unpack p).1 = tcValue (p.magBytes (p.tag.toNat - 8))))

/-- R87: the closed form of `pack_W`, exactly when it raises, and that it is injective. -/
def Obligations.PackHasOneClosedForm : Prop :=
  ∀ (c : Config) (w : Width), w ≠ .w64 → c.Legal →
    (∀ u s, ((∃ k, pack c w u s = .error k) ↔ maxOf c w < u ∨ u < minOf c w)) ∧
    (∀ u, digits u ≤ 18 → InRange c w u) ∧
    (∀ u s p, s ≤ 6 → pack c w u s = .ok p → IsImage w u s p) ∧
    (∀ u s u' s' p, s ≤ 6 → s' ≤ 6 → pack c w u s = .ok p → pack c w u' s' = .ok p → u = u' ∧ s = s')

/-- R92, R67: `unpack_W` undoes `pack_W`, and `pack_W` undoes `unpack_W` on every canonical value. -/
def Obligations.PackAndUnpackAreInverse : Prop :=
  ∀ (c : Config) (w : Width), w ≠ .w64 → c.Legal →
    (∀ u s p, s ≤ 6 → pack c w u s = .ok p → unpack p = (u, s)) ∧
    (∀ p : Packed w, canonical c p = true → pack c w (unpack p).1 (unpack p).2 = .ok p)

/-- R67: a packed pattern is canonical exactly when some request makes ENC.W answer with it; and then
`unpack_W` followed by `pack_W` gives it back. -/
def Obligations.CanonicalExactlyWhatEncodeProduces : Prop :=
  ∀ (c : Config) (w : Width) (p : Packed w), c.Legal →
    (canonical c p = true ↔ ∃ s : State, s.cfg = c ∧ s.req.Fits c ∧
      exec (instrOf w .enc) s = .next (s.answer (.packed w p))) ∧
    (canonical c p = true → w ≠ .w64 → pack c w (unpack p).1 (unpack p).2 = .ok p)

/-! ## The request ports -/

/-- R13, R70: the value operand and `ns` as read from words that fit their ports: `v_mag` unsigned, the
signed words in two's complement, negative zero as zero. -/
def Obligations.OperandPortsReadAsTheirTypes : Prop :=
  ∀ (c : Config) (q : Request), 4 ≤ c.scW → q.Fits c →
    (q.value c).mag = q.vMag ∧ ((q.value c).neg = true ↔ q.vNeg = 1#1) ∧
    (q.value c).scale = (if q.vScale < 2 ^ (c.scW - 1) then (q.vScale : Int) else q.vScale - 2 ^ c.scW) ∧
    q.newScale c = (if q.ns < 2 ^ (c.scW - 1) then (q.ns : Int) else q.ns - 2 ^ c.scW) ∧
    (q.vMag = 0 → unscaled (q.value c) = 0)

/-! ## The codec family -/

/-- R84: normalization keeps the number and leaves a scale of 0 to 6. -/
def Obligations.NormalizationKeepsTheNumber : Prop :=
  ∀ u s : Int, s ≤ 6 → (normalizeScale u s).2 ≤ 6 ∧
    (s < 0 → normalizeScale u s = (u * 10 ^ (-s).toNat, 0)) ∧
    (0 ≤ s → ((normalizeScale u s).1 = u ∧ ((normalizeScale u s).2 : Int) = s)) ∧
    number (normalizeScale u s).1 (normalizeScale u s).2 = (u : ℚ) * (10 : ℚ) ^ (-s)

/-- R89, R90: ENC.96 and ENC.128. In range, the response is the packed image of the unscaled integer
with a negative scale multiplied out; else the first error of R154. -/
def Obligations.EncodeTaggedResults : Prop :=
  ∀ (w : Width) (s : State) (v : Value) (u : Int), w ≠ .w64 → s.cfg.Legal → v = s.req.value s.cfg →
    u = unscaled v * 10 ^ (-v.scale).toNat →
    (v.scale ≤ 6 → InRange s.cfg w u → ∃ p, IsImage w u v.scale.toNat p ∧
      exec (instrOf w .enc) s = .next (s.answer (.packed w p))) ∧
    (6 < v.scale → exec (instrOf w .enc) s = .next (s.answer (.err .scaleTooLarge))) ∧
    (v.scale ≤ 6 → maxOf s.cfg w < u → exec (instrOf w .enc) s = .next (s.answer (.err .valueTooLarge))) ∧
    (v.scale ≤ 6 → u < minOf s.cfg w → exec (instrOf w .enc) s = .next (s.answer (.err .valueTooSmall)))

/-- R91: ENC.64. The mantissa is the value times 10^6. -/
def Obligations.EncodeMantissaResults : Prop :=
  ∀ (s : State) (v : Value) (m : Int), v = s.req.value s.cfg →
    m = unscaled v * 10 ^ (6 - v.scale).toNat →
    (v.scale ≤ 6 → -2 ^ 63 ≤ m → m ≤ 2 ^ 63 - 1 →
      exec .enc64 s = .next (s.answer (.packed .w64 ⟨0#0, BitVec.ofInt 64 m⟩))) ∧
    (6 < v.scale → exec .enc64 s = .next (s.answer (.err .scaleTooLarge))) ∧
    (v.scale ≤ 6 → 2 ^ 63 - 1 < m → exec .enc64 s = .next (s.answer (.err .valueTooLarge))) ∧
    (v.scale ≤ 6 → m < -2 ^ 63 → exec .enc64 s = .next (s.answer (.err .valueTooSmall)))

/-- R93, R94, R95, R98: DEC at the three widths. A canonical operand comes back on the value port whole,
its magnitude not truncated and its scale the stored one; a reserved one is NonCanonicalOperand. At
W = 64 every operand is canonical and the scale is 6. -/
def Obligations.DecodeResultsFitTheValuePort : Prop :=
  ∀ (w : Width) (s : State) (a : Packed w), s.cfg.Legal → a = s.req.packedA w →
    (canonical s.cfg a = true →
      ∃ v, exec (instrOf w .dec) s = .next (s.answer (.value v)) ∧
        (v.neg = true ↔ (unpack a).1 < 0) ∧ (v.mag : Int) = |(unpack a).1| ∧ v.scale = (unpack a).2 ∧
        (Response.value v).ports s.cfg =
          { st := 0#4, rH := 0#64, rB := 0#64, rvNeg := BitVec.ofBool v.neg,
            rvMag := (unpack a).1.natAbs, rvScale := (unpack a).2, rS := 0#32 }) ∧
    (canonical s.cfg a = false → exec (instrOf w .dec) s = .next (s.answer (.err .nonCanonicalOperand))) ∧
    (w = .w64 → canonical s.cfg a = true ∧ unpack a = (s.req.aB.toInt, 6))

/-- R96: the round trip. What ENC.W answered, DEC.W reads back as the same number; at the tagged widths
with the scale max(v.scale, 0) and the normalized integer, at W = 64 with scale 6. -/
def Obligations.DecodeUndoesEncode : Prop :=
  ∀ (w : Width) (s t : State) (p : Packed w) (v : Value), s.cfg.Legal → t.cfg = s.cfg →
    v = s.req.value s.cfg → exec (instrOf w .enc) s = .next (s.answer (.packed w p)) →
    t.req.packedA w = p →
    ∃ v', exec (instrOf w .dec) t = .next (t.answer (.value v')) ∧ numberOfValue v' = numberOfValue v ∧
      (w ≠ .w64 → v'.scale = max v.scale 0 ∧ unscaled v' = (normalizeScale (unscaled v) v.scale).1) ∧
      (w = .w64 → v'.scale = 6 ∧
        unscaled v' = (normalizeScale (unscaled v) v.scale).1 * 10 ^ (6 - (normalizeScale (unscaled v) v.scale).2))

/-- R97: at the tagged widths two accepted inputs have the same bits iff their normalized integer and
scale agree; at W = 64 iff they are numerically equal. -/
def Obligations.EncodingsTellInputsApart : Prop :=
  ∀ (w : Width) (s t : State) (p q : Packed w) (v v' : Value), s.cfg.Legal → t.cfg = s.cfg →
    v = s.req.value s.cfg → v' = t.req.value t.cfg →
    exec (instrOf w .enc) s = .next (s.answer (.packed w p)) →
    exec (instrOf w .enc) t = .next (t.answer (.packed w q)) →
    (w ≠ .w64 → (p = q ↔ normalizeScale (unscaled v) v.scale = normalizeScale (unscaled v') v'.scale)) ∧
    (w = .w64 → (p = q ↔ numberOfValue v = numberOfValue v'))

/-! ## The arithmetic family -/

/-- R110, R111, R112: the flag of the checked primitives, when it is raised and when it cannot be. -/
def Obligations.CheckedPrimitivesFlagExactlyOverflow : Prop :=
  ∀ x y : Int, (-2 ^ 63 ≤ x ∧ x ≤ 2 ^ 63 - 1) → (-2 ^ 63 ≤ y ∧ y ≤ 2 ^ 63 - 1) →
    (addo64 x y = .ovf ↔ 2 ^ 63 - 1 < x + y ∨ x + y < -2 ^ 63) ∧
    (addo64 x y ≠ .ovf → addo64 x y = .fits (x + y)) ∧
    (addo64 x y = .ovf → (0 < x ∧ 0 < y) ∨ (x < 0 ∧ y < 0)) ∧
    (subo64 x y = .ovf ↔ 2 ^ 63 - 1 < x - y ∨ x - y < -2 ^ 63) ∧
    (subo64 x y ≠ .ovf → subo64 x y = .fits (x - y)) ∧
    (subo64 x y = .ovf → (0 ≤ x ∧ y < 0) ∨ (x < 0 ∧ 0 < y)) ∧
    (mulo64 x y = .ovf ↔ 2 ^ 63 - 1 < x * y ∨ x * y < -2 ^ 63) ∧
    (mulo64 x y ≠ .ovf → mulo64 x y = .fits (x * y)) ∧
    mulo64 x 1 = .fits x ∧ mulo64 0 y = .fits 0 ∧ subo64 0 (-2 ^ 63) = .ovf ∧
    (mulo64 x 10 = .ovf ↔ x < -922337203685477580 ∨ 922337203685477580 < x)

/-- R118: the fast path and the slow path agree bit for bit, for ADD, SUB, NEG and RSC: on canonical
operands each operation is `repack_W` of its exact result. -/
def Obligations.FastPathAgreesWithSlowPath : Prop :=
  ∀ (c : Config) (w : Width) (a b : Packed w), c.Legal → canonical c a = true → canonical c b = true →
    (∀ (op : AddOp) (s : Nat), s = max (unpack a).2 (unpack b).2 →
      addSub c op a b =
        repack c w (op.exact ((unpack a).1 * 10 ^ (s - (unpack a).2)) ((unpack b).1 * 10 ^ (s - (unpack b).2))) s) ∧
    negate c a = repack c w (-(unpack a).1) (unpack a).2 ∧
    (∀ n : Nat, (unpack a).2 ≤ n → n ≤ 6 →
      rescale c a n = repack c w ((unpack a).1 * 10 ^ (n - (unpack a).2)) n)

/-- R119 to R124: ADD and SUB at the three widths. On canonical operands with the exact aligned result t
in range, the response is the packed image of t at the larger scale; out of range, ArithmeticOverflow;
with a reserved operand, NonCanonicalOperand. -/
def Obligations.AddSubResults : Prop :=
  ∀ (op : AddOp) (w : Width) (s : State) (a b : Packed w) (k : Nat) (t : Int), s.cfg.Legal →
    a = s.req.packedA w → b = s.req.packedB w → k = max (unpack a).2 (unpack b).2 →
    t = op.exact ((unpack a).1 * 10 ^ (k - (unpack a).2)) ((unpack b).1 * 10 ^ (k - (unpack b).2)) →
    (canonical s.cfg a = true → canonical s.cfg b = true → InRange s.cfg w t →
      ∃ p, IsImage w t k p ∧ exec (instrOf w (opOf op)) s = .next (s.answer (.packed w p))) ∧
    (canonical s.cfg a = true → canonical s.cfg b = true → ¬ InRange s.cfg w t →
      exec (instrOf w (opOf op)) s = .next (s.answer (.err .arithmeticOverflow))) ∧
    (canonical s.cfg a = false ∨ canonical s.cfg b = false →
      exec (instrOf w (opOf op)) s = .next (s.answer (.err .nonCanonicalOperand)))

/-- R126, R127, R128: NEG at the three widths. -/
def Obligations.NegateResults : Prop :=
  ∀ (w : Width) (s : State) (a : Packed w), s.cfg.Legal → a = s.req.packedA w →
    (canonical s.cfg a = true → InRange s.cfg w (-(unpack a).1) →
      ∃ p, IsImage w (-(unpack a).1) (unpack a).2 p ∧
        exec (instrOf w .neg) s = .next (s.answer (.packed w p))) ∧
    (canonical s.cfg a = true → ¬ InRange s.cfg w (-(unpack a).1) →
      exec (instrOf w .neg) s = .next (s.answer (.err .arithmeticOverflow))) ∧
    (canonical s.cfg a = false → exec (instrOf w .neg) s = .next (s.answer (.err .nonCanonicalOperand))) ∧
    (w = .w64 → (InRange s.cfg w (-(unpack a).1) ↔ s.req.aB ≠ 0x8000000000000000#64))

/-- R130, R131, R132: RSC at the three widths, with the order of its checks. -/
def Obligations.RescaleResults : Prop :=
  ∀ (w : Width) (s : State) (a : Packed w) (n t : Int), s.cfg.Legal → a = s.req.packedA w →
    n = s.req.newScale s.cfg → t = (unpack a).1 * 10 ^ (n - (unpack a).2).toNat →
    (canonical s.cfg a = true → 0 ≤ n → n ≤ 6 → (unpack a).2 ≤ n → InRange s.cfg w t →
      ∃ p, IsImage w t n.toNat p ∧ exec (instrOf w .rsc) s = .next (s.answer (.packed w p))) ∧
    (canonical s.cfg a = true → 0 ≤ n → n ≤ 6 → (unpack a).2 ≤ n → ¬ InRange s.cfg w t →
      exec (instrOf w .rsc) s = .next (s.answer (.err .arithmeticOverflow))) ∧
    (canonical s.cfg a = true → n < 0 ∨ 6 < n ∨ n < (unpack a).2 →
      exec (instrOf w .rsc) s = .next (s.answer (.err .invalidScale))) ∧
    (canonical s.cfg a = false → exec (instrOf w .rsc) s = .next (s.answer (.err .nonCanonicalOperand)))

/-- R133: ADD gives the same response with its operands exchanged, also when it raises. -/
def Obligations.AddIsCommutative : Prop :=
  ∀ (w : Width) (s t : State), t.cfg = s.cfg →
    t.req.packedA w = s.req.packedB w → t.req.packedB w = s.req.packedA w →
    ∃ x, exec (instrOf w .add) s = .next (s.answer x) ∧ exec (instrOf w .add) t = .next (t.answer x)

/-- R133: where NEG of b does not raise, SUB of a and b is ADD of a and that negation. -/
def Obligations.SubIsAddOfTheNegation : Prop :=
  ∀ (w : Width) (s n t : State) (nb : Packed w), s.cfg.Legal → n.cfg = s.cfg → t.cfg = s.cfg →
    n.req.packedA w = s.req.packedB w → exec (instrOf w .neg) n = .next (n.answer (.packed w nb)) →
    t.req.packedA w = s.req.packedA w → t.req.packedB w = nb →
    ∃ x, exec (instrOf w .sub) s = .next (s.answer x) ∧ exec (instrOf w .add) t = .next (t.answer x)

/-- R133: NEG twice gives the operand's bits back, wherever the first NEG does not raise. -/
def Obligations.NegationIsAnInvolution : Prop :=
  ∀ (w : Width) (s t : State) (p : Packed w), s.cfg.Legal → t.cfg = s.cfg →
    exec (instrOf w .neg) s = .next (s.answer (.packed w p)) → t.req.packedA w = p →
    exec (instrOf w .neg) t = .next (t.answer (.packed w (s.req.packedA w)))

/-- R133, R173: RSC to the operand's own scale gives its bits back; to a smaller one it raises
InvalidScale, also where only zeros would be dropped. -/
def Obligations.RescaleIdentityAndNoNarrowing : Prop :=
  ∀ (w : Width) (s : State) (a : Packed w), a = s.req.packedA w → canonical s.cfg a = true →
    (s.req.newScale s.cfg = (unpack a).2 → exec (instrOf w .rsc) s = .next (s.answer (.packed w a))) ∧
    (s.req.newScale s.cfg < (unpack a).2 →
      exec (instrOf w .rsc) s = .next (s.answer (.err .invalidScale)))

/-- R133: adding a zero of the same or a smaller scale gives a's bits; a − a is zero at a's scale. -/
def Obligations.AddingZeroAndSubtractingItself : Prop :=
  ∀ (w : Width) (s : State) (a b : Packed w), s.cfg.Legal → a = s.req.packedA w → b = s.req.packedB w →
    canonical s.cfg a = true → canonical s.cfg b = true →
    ((unpack b).1 = 0 → (unpack b).2 ≤ (unpack a).2 →
      exec (instrOf w .add) s = .next (s.answer (.packed w a))) ∧
    (b = a → ∃ p, IsImage w 0 (unpack a).2 p ∧ exec (instrOf w .sub) s = .next (s.answer (.packed w p)))

/-- R129, R133: a successful RSC keeps the number, so CMP of its result with the operand gives 0. -/
def Obligations.RescaleKeepsTheNumber : Prop :=
  ∀ (w : Width) (s t : State) (p : Packed w), s.cfg.Legal → t.cfg = s.cfg →
    exec (instrOf w .rsc) s = .next (s.answer (.packed w p)) →
    t.req.packedA w = p → t.req.packedB w = s.req.packedA w →
    numberOf p = numberOf (s.req.packedA w) ∧
    exec (instrOf w .cmp) t = .next (t.answer (.scalar 0#32))

/-! ## The comparison family -/

/-- R135 to R138: EQ compares the raw bits of the words its width has, and any bits. -/
def Obligations.EqualityReadsRawBits : Prop :=
  ∀ s : State,
    exec .eq64 s = .next (s.answer (.scalar (if s.req.aB = s.req.bB then 1#32 else 0#32))) ∧
    exec .eq96 s = .next (s.answer (.scalar
      (if s.req.aH.toNat % 2 ^ 32 = s.req.bH.toNat % 2 ^ 32 ∧ s.req.aB = s.req.bB then 1#32 else 0#32))) ∧
    exec .eq128 s = .next (s.answer (.scalar
      (if s.req.aH = s.req.bH ∧ s.req.aB = s.req.bB then 1#32 else 0#32)))

/-- R140, R141, R142: CMP orders canonical operands by the numbers they stand for, exactly, and answers
−1, 0 or +1 in 32 bits; a reserved operand is NonCanonicalOperand. -/
def Obligations.OrderingComparesTheNumbers : Prop :=
  ∀ (w : Width) (s : State) (a b : Packed w), a = s.req.packedA w → b = s.req.packedB w →
    (canonical s.cfg a = true → canonical s.cfg b = true →
      (numberOf a < numberOf b → exec (instrOf w .cmp) s = .next (s.answer (.scalar 0xFFFFFFFF#32))) ∧
      (numberOf a = numberOf b → exec (instrOf w .cmp) s = .next (s.answer (.scalar 0#32))) ∧
      (numberOf b < numberOf a → exec (instrOf w .cmp) s = .next (s.answer (.scalar 1#32)))) ∧
    (canonical s.cfg a = false ∨ canonical s.cfg b = false →
      exec (instrOf w .cmp) s = .next (s.answer (.err .nonCanonicalOperand)))

/-- R143 to R146: HASH answers the build's hash of the words its width has, whatever the bits; where EQ
of two operands is 1 their hashes agree. Nothing is said of the hash's value, which is a free value. -/
def Obligations.HashReadsRawBits : Prop :=
  (∀ s : State,
    exec .hash64 s = .next (s.answer (.scalar (Config.hashfn64 s.req.aB))) ∧
    exec .hash96 s = .next (s.answer (.scalar (Config.hashfn96 (BitVec.ofNat 32 s.req.aH.toNat) s.req.aB))) ∧
    exec .hash128 s = .next (s.answer (.scalar (Config.hashfn128 s.req.aH s.req.aB)))) ∧
  (∀ (w : Width) (e s t : State), s.req.packedA w = e.req.packedA w → t.req.packedA w = e.req.packedB w →
    exec (instrOf w .eq) e = .next (e.answer (.scalar 1#32)) →
    ∃ x, exec (instrOf w .hash) s = .next (s.answer (.scalar x)) ∧
      exec (instrOf w .hash) t = .next (t.answer (.scalar x)))

/-- R147: on canonical operands EQ = 1 implies CMP = 0; CMP = 0 with EQ = 0 exactly when the two stand
for the same number at different scales; at equal scales, and always at W = 64, the two agree. -/
def Obligations.EqualityAndOrderingDiverge : Prop :=
  ∀ (w : Width) (s : State) (a b : Packed w), s.cfg.Legal → a = s.req.packedA w → b = s.req.packedB w →
    canonical s.cfg a = true → canonical s.cfg b = true →
    (exec (instrOf w .eq) s = .next (s.answer (.scalar 1#32)) →
      exec (instrOf w .cmp) s = .next (s.answer (.scalar 0#32))) ∧
    (exec (instrOf w .cmp) s = .next (s.answer (.scalar 0#32)) ∧
        exec (instrOf w .eq) s = .next (s.answer (.scalar 0#32)) ↔
      numberOf a = numberOf b ∧ (unpack a).2 ≠ (unpack b).2) ∧
    ((unpack a).2 = (unpack b).2 ∨ w = .w64 →
      (exec (instrOf w .cmp) s = .next (s.answer (.scalar 0#32)) ↔
        exec (instrOf w .eq) s = .next (s.answer (.scalar 1#32))))
end

