-- ==== Sys2Proof/Laws/State.lean ====
section
/-! SUPPORT. One lemma per field of State for each update of the shared operations. -/

namespace Sys2Proof.Machine

variable (s : State) (x : Response) (k : ErrorKind)

@[simp] theorem State.answer_cfg : (s.answer x).cfg = s.cfg := rfl
@[simp] theorem State.answer_rst : (s.answer x).rst = s.rst := rfl
@[simp] theorem State.answer_requests : (s.answer x).requests = s.requests := rfl
@[simp] theorem State.answer_req : (s.answer x).req = s.req := rfl
@[simp] theorem State.answer_responses : (s.answer x).responses = s.responses ++ [x] := rfl
@[simp] theorem State.answer_rspReady : (s.answer x).rspReady = s.rspReady := rfl
@[simp] theorem State.answer_delivered : (s.answer x).delivered = s.delivered := rfl

/-- Raising an error is answering with it; the lemmas on `answer` then apply. -/
@[simp] theorem State.raise_eq : s.raise k = s.answer (.err k) := rfl

/-- A state and a response are determined by the state after the answer. -/
theorem State.answer_injective {x y : Response} (h : s.answer x = s.answer y) : x = y := by
  simpa using congrArg State.responses h

@[simp] theorem State.dropPending_cfg : s.dropPending.cfg = s.cfg := rfl
@[simp] theorem State.dropPending_rst : s.dropPending.rst = s.rst := rfl
@[simp] theorem State.dropPending_requests : s.dropPending.requests = s.requests := rfl
@[simp] theorem State.dropPending_req : s.dropPending.req = s.req := rfl
@[simp] theorem State.dropPending_responses : s.dropPending.responses = [] := rfl
@[simp] theorem State.dropPending_rspReady : s.dropPending.rspReady = s.rspReady := rfl
@[simp] theorem State.dropPending_delivered : s.dropPending.delivered = s.delivered := rfl

/-- What the response channel can do: nothing, or deliver the oldest response. -/
theorem State.deliver_cases :
    (s.deliver = s ∧ (s.rspReady = false ∨ s.responses = [])) ∨
    ∃ x rest, s.rspReady = true ∧ s.responses = x :: rest ∧
      s.deliver = { s with responses := rest, delivered := s.delivered ++ [x] } := by
  unfold State.deliver
  split
  · next hr =>
    split
    · next h => exact .inl ⟨rfl, .inr h⟩
    · next x rest h => exact .inr ⟨x, rest, hr, h, rfl⟩
  · next hr => exact .inl ⟨rfl, .inl (by simpa using hr)⟩

@[simp] theorem State.deliver_cfg : s.deliver.cfg = s.cfg := by
  obtain ⟨h, -⟩ | ⟨_, _, -, -, h⟩ := s.deliver_cases <;> rw [h]
@[simp] theorem State.deliver_rst : s.deliver.rst = s.rst := by
  obtain ⟨h, -⟩ | ⟨_, _, -, -, h⟩ := s.deliver_cases <;> rw [h]
@[simp] theorem State.deliver_requests : s.deliver.requests = s.requests := by
  obtain ⟨h, -⟩ | ⟨_, _, -, -, h⟩ := s.deliver_cases <;> rw [h]
@[simp] theorem State.deliver_req : s.deliver.req = s.req := by
  obtain ⟨h, -⟩ | ⟨_, _, -, -, h⟩ := s.deliver_cases <;> rw [h]
@[simp] theorem State.deliver_rspReady : s.deliver.rspReady = s.rspReady := by
  obtain ⟨h, -⟩ | ⟨_, _, -, -, h⟩ := s.deliver_cases <;> rw [h]

/-- Delivery moves responses from pending to delivered and loses none. -/
theorem State.deliver_keeps_order :
    s.deliver.delivered ++ s.deliver.responses = s.delivered ++ s.responses := by
  obtain ⟨h, -⟩ | ⟨x, rest, -, hr, h⟩ := s.deliver_cases <;> rw [h]
  simp [hr]

/-- Accepting takes the head of the request channel as the sample, and nothing else changes. -/
theorem State.accept_eq_some {s t : State} :
    s.accept = some t ↔ ∃ q rest, s.requests = q :: rest ∧ t = { s with requests := rest, req := q } := by
  unfold State.accept
  split <;> simp_all [eq_comm]

end Sys2Proof.Machine
end

