-- ==== Sys2Proof/Laws/Exec.lean ====
section
/-! SUPPORT. What an operation and a step can do, said once: the meaning of each operation at any width,
and the inversion of `complete`, `exec` and `step`. -/

namespace Sys2Proof.Machine

variable (s : State)

@[simp] theorem complete_ok (x : Response) : complete s (.ok x) = .next (s.answer x) := rfl

@[simp] theorem complete_error (k : ErrorKind) : complete s (.error k) = .next (s.answer (.err k)) := rfl

/-- `complete` answers once, with the result or the error. -/
theorem complete_eq (e : Except ErrorKind Response) :
    ∃ x, complete s e = .next (s.answer x) ∧ (e = .ok x ∨ ∃ k, e = .error k ∧ x = .err k) := by
  cases e with
  | ok x => exact ⟨x, rfl, .inl rfl⟩
  | error k => exact ⟨_, rfl, .inr ⟨k, rfl, rfl⟩⟩

/-- Two responses to one sample are equal where the states are. -/
theorem next_answer_inj {x y : Response} :
    (Host.Outcome.next (s.answer x) : Host.Outcome State Fault Refusal) = .next (s.answer y) ↔ x = y :=
  ⟨fun h => State.answer_injective s (Host.Outcome.next.inj h), fun h => by rw [h]⟩

/-- `complete` answered with a result, so the operation returned it. -/
theorem ok_of_complete {α : Type} {g : α → Response} (hg : Function.Injective g) {e : Except ErrorKind α}
    {a : α} (hk : ∀ k b, g b ≠ .err k) (h : complete s (e.map g) = .next (s.answer (g a))) : e = .ok a := by
  cases e with
  | ok b => exact congrArg _ (hg ((next_answer_inj s).mp h))
  | error k => exact absurd ((next_answer_inj s).mp h).symm (hk k a)

/-! ## The operations at any width -/

theorem exec_enc_w64 : exec (instrOf .w64 .enc) s =
    complete s ((encMantissa (s.req.value s.cfg)).map (Response.packed .w64)) := rfl

theorem exec_enc {w : Width} (hw : w ≠ .w64) : exec (instrOf w .enc) s =
    complete s ((encTagged s.cfg w (s.req.value s.cfg)).map (Response.packed w)) := by
  cases w
  · exact absurd rfl hw
  all_goals rfl

theorem exec_dec (w : Width) : exec (instrOf w .dec) s =
    complete s ((dec s.cfg (s.req.packedA w)).map Response.value) := by cases w <;> rfl

theorem exec_add (w : Width) : exec (instrOf w .add) s =
    complete s ((addSub s.cfg .add (s.req.packedA w) (s.req.packedB w)).map (Response.packed w)) := by
  cases w <;> rfl

theorem exec_sub (w : Width) : exec (instrOf w .sub) s =
    complete s ((addSub s.cfg .sub (s.req.packedA w) (s.req.packedB w)).map (Response.packed w)) := by
  cases w <;> rfl

theorem exec_neg (w : Width) : exec (instrOf w .neg) s =
    complete s ((negate s.cfg (s.req.packedA w)).map (Response.packed w)) := by cases w <;> rfl

theorem exec_rsc (w : Width) : exec (instrOf w .rsc) s =
    complete s ((rescale s.cfg (s.req.packedA w) (s.req.newScale s.cfg)).map (Response.packed w)) := by
  cases w <;> rfl

theorem exec_cmp (w : Width) : exec (instrOf w .cmp) s =
    complete s ((compareNumbers s.cfg (s.req.packedA w) (s.req.packedB w)).map Response.scalar) := by
  cases w <;> rfl

theorem exec_eq (w : Width) : exec (instrOf w .eq) s =
    .next (s.answer (.scalar (eqScalar (s.req.packedA w) (s.req.packedB w)))) := by cases w <;> rfl

theorem exec_hash (w : Width) : exec (instrOf w .hash) s =
    .next (s.answer (.scalar (hashScalar (s.req.packedA w)))) := by cases w <;> rfl

/-- Every operation is one of the nine at one of the three widths. -/
theorem instrOf_width_op (i : Instr) : instrOf i.width i.op = i := by cases i <;> rfl

@[simp] theorem width_instrOf (w : Width) (o : Op) : (instrOf w o).width = w := by cases w <;> cases o <;> rfl

@[simp] theorem op_instrOf (w : Width) (o : Op) : (instrOf w o).op = o := by cases w <;> cases o <;> rfl

/-- All `exec` can do: the state with one response more. -/
theorem exec_answers (i : Instr) : ∃ x, exec i s = .next (s.answer x) := by
  cases i
  all_goals first | exact ⟨_, rfl⟩ | exact (complete_eq s _).imp fun _ h => h.1

/-- An operation on two states with the same build and sample gives the same response. -/
theorem exec_same_sample (i : Instr) {s t : State} (hc : s.cfg = t.cfg) (hq : s.req = t.req) :
    ∃ x, exec i s = .next (s.answer x) ∧ exec i t = .next (t.answer x) := by
  have key : ∀ e : Except ErrorKind Response,
      ∃ x, complete s e = .next (s.answer x) ∧ complete t e = .next (t.answer x) := by
    intro e
    cases e <;> exact ⟨_, rfl, rfl⟩
  rw [← instrOf_width_op i]
  generalize i.width = w
  cases i.op
  · by_cases hw : w = .w64
    · subst hw
      rw [exec_enc_w64, exec_enc_w64, hc, hq]
      exact key _
    · rw [exec_enc _ hw, exec_enc _ hw, hc, hq]
      exact key _
  · rw [exec_dec, exec_dec, hc, hq]; exact key _
  · rw [exec_add, exec_add, hc, hq]; exact key _
  · rw [exec_sub, exec_sub, hc, hq]; exact key _
  · rw [exec_neg, exec_neg, hc, hq]; exact key _
  · rw [exec_rsc, exec_rsc, hc, hq]; exact key _
  · rw [exec_cmp, exec_cmp, hc, hq]; exact key _
  · rw [exec_eq, exec_eq, hq]; exact ⟨_, rfl, rfl⟩
  · rw [exec_hash, exec_hash, hq]; exact ⟨_, rfl, rfl⟩

/-! ## The step -/

theorem step_rst (h : s.rst = true) : step s = .next s.dropPending := by simp [step, h]

theorem step_idle (h : s.rst = false) (hq : s.requests = []) : step s = .next s.deliver := by
  have : s.deliver.accept = none := by simp [State.accept, hq]
  simp [step, h, this]

/-- A request at the head of the channel is taken and its command answered. -/
theorem step_request {q : Request} {rest : List Request} (h : s.rst = false) (hq : s.requests = q :: rest) :
    step s = match decode q.cmd with
      | .ok i => exec i { s.deliver with requests := rest, req := q }
      | .error _ => .next (State.answer { s.deliver with requests := rest, req := q } (.err .illegalCommand)) := by
  have : s.deliver.accept = some { s.deliver with requests := rest, req := q } :=
    State.accept_eq_some.mpr ⟨q, rest, by simpa using hq, rfl⟩
  simp only [step, h, this]
  rfl

/-- All a step can do: drop what is pending under reset, deliver, or deliver and answer one request. -/
theorem step_cases : (s.rst = true ∧ step s = .next s.dropPending) ∨
    (s.rst = false ∧ s.requests = [] ∧ step s = .next s.deliver) ∨
    ∃ q rest x, s.rst = false ∧ s.requests = q :: rest ∧
      step s = .next (State.answer { s.deliver with requests := rest, req := q } x) := by
  cases h : s.rst with
  | true => exact .inl ⟨rfl, step_rst s h⟩
  | false =>
    cases hq : s.requests with
    | nil => exact .inr (.inl ⟨rfl, rfl, step_idle s h hq⟩)
    | cons q rest =>
      refine .inr (.inr ⟨q, rest, ?_⟩)
      rw [step_request s h hq]
      cases decode q.cmd with
      | error _ => exact ⟨_, rfl, rfl, rfl⟩
      | ok i =>
        obtain ⟨x, hx⟩ := exec_answers { s.deliver with requests := rest, req := q } i
        exact ⟨x, rfl, rfl, hx⟩

end Sys2Proof.Machine
end

