-- ==== Sys2Proof/Laws/Math.lean ====
section
/-! SUPPORT. What the functions of the external math library do (spec R80 to R83). -/

namespace Sys2Proof.Machine

@[simp] theorem pow10_eq (k : Nat) : pow10 k = 10 ^ k := by simp [pow10]

theorem pow10_pos (k : Nat) : (0 : Int) < 10 ^ k := by positivity

/-- `leastFrom` finds the least number from k on that satisfies p, where the search reaches one. -/
theorem leastFrom_spec (p : Nat → Bool) (fuel k : Nat) (h : ∃ j, k ≤ j ∧ j ≤ k + fuel ∧ p j = true) :
    k ≤ leastFrom p fuel k ∧ p (leastFrom p fuel k) = true ∧
      ∀ j, k ≤ j → p j = true → leastFrom p fuel k ≤ j := by
  induction fuel generalizing k with
  | zero =>
    obtain ⟨j, h1, h2, h3⟩ := h
    obtain rfl : j = k := by omega
    exact ⟨le_rfl, h3, fun _ h _ => h⟩
  | succ fuel ih =>
    rw [leastFrom]
    split
    · next hk => exact ⟨le_rfl, hk, fun _ h _ => h⟩
    · next hk =>
      obtain ⟨j, h1, h2, h3⟩ := h
      have hkj : k ≠ j := by rintro rfl; exact hk h3
      obtain ⟨a, b, c⟩ := ih (k + 1) ⟨j, by omega, by omega, h3⟩
      refine ⟨by omega, b, fun i hi hp => c i ?_ hp⟩
      have : k ≠ i := by rintro rfl; exact hk hp
      omega

theorem natAbs_lt_two_pow_searchFuel (n : Int) : n.natAbs < 2 ^ searchFuel n :=
  Nat.lt_log2_self

/-- The digit search ends: 1 ≤ digits n, the digits hold n, and no fewer do. -/
theorem digits_spec (n : Int) : 1 ≤ digits n ∧ n.natAbs < 10 ^ digits n ∧
    ∀ d, 1 ≤ d → n.natAbs < 10 ^ d → digits n ≤ d := by
  have h := leastFrom_spec (fun d => decide (n.natAbs < 10 ^ d)) (searchFuel n) 1
    ⟨searchFuel n, by simp [searchFuel], by omega, by
      have := natAbs_lt_two_pow_searchFuel n
      have h2 : (2 : Nat) ^ searchFuel n ≤ 10 ^ searchFuel n := Nat.pow_le_pow_left (by norm_num) _
      simpa using lt_of_lt_of_le this h2⟩
  simpa [digits] using h

theorem digits_le_iff (n : Int) (d : Nat) (hd : 1 ≤ d) : digits n ≤ d ↔ n.natAbs < 10 ^ d := by
  obtain ⟨-, h2, h3⟩ := digits_spec n
  exact ⟨fun h => lt_of_lt_of_le h2 (Nat.pow_le_pow_right (by norm_num) h), h3 d hd⟩

theorem fitsBytes_iff (n : Int) (L : Nat) :
    fitsBytes n L = true ↔ -2 ^ (8 * L - 1) ≤ n ∧ n < 2 ^ (8 * L - 1) := by
  simp [fitsBytes]

theorem fitsBytes_mono {n : Int} {L M : Nat} (h : L ≤ M) (hf : fitsBytes n L = true) :
    fitsBytes n M = true := by
  rw [fitsBytes_iff] at *
  have : (2 : Int) ^ (8 * L - 1) ≤ 2 ^ (8 * M - 1) := pow_le_pow_right₀ (by norm_num) (by omega)
  omega

/-- The length search ends: 1 ≤ tc_len n, that many bytes hold n, and no fewer do. -/
theorem tcLen_spec (n : Int) : 1 ≤ tcLen n ∧ fitsBytes n (tcLen n) = true ∧
    ∀ L, 1 ≤ L → fitsBytes n L = true → tcLen n ≤ L := by
  refine leastFrom_spec (fitsBytes n) (searchFuel n) 1
    ⟨searchFuel n, by simp [searchFuel], by omega, ?_⟩
  rw [fitsBytes_iff]
  have h := natAbs_lt_two_pow_searchFuel n
  have h2 : (2 : Nat) ^ searchFuel n ≤ 2 ^ (8 * searchFuel n - 1) :=
    Nat.pow_le_pow_right (by norm_num) (by simp only [searchFuel]; omega)
  have h3 : ((n.natAbs : Nat) : Int) < ((2 ^ (8 * searchFuel n - 1) : Nat) : Int) := by omega
  push_cast at h3
  exact ⟨le_of_lt (abs_lt.mp h3).1, (abs_lt.mp h3).2⟩

theorem tcLen_le_iff (n : Int) (L : Nat) (hL : 1 ≤ L) :
    tcLen n ≤ L ↔ -2 ^ (8 * L - 1) ≤ n ∧ n < 2 ^ (8 * L - 1) := by
  obtain ⟨-, h2, h3⟩ := tcLen_spec n
  rw [← fitsBytes_iff]
  exact ⟨fun h => fitsBytes_mono h h2, h3 L hL⟩

/-! ## Byte arrays -/

theorem bytesToNat_from (B : List Byte) (a : Nat) :
    B.foldl (fun acc x => acc * 256 + x.toNat) a = a * 256 ^ B.length + bytesToNat B := by
  induction B generalizing a with
  | nil => simp [bytesToNat]
  | cons x B ih =>
    simp only [List.foldl_cons, bytesToNat, List.length_cons]
    rw [ih, ih (0 * 256 + x.toNat)]
    ring

@[simp] theorem bytesToNat_nil : bytesToNat [] = 0 := rfl

theorem bytesToNat_cons (x : Byte) (B : List Byte) :
    bytesToNat (x :: B) = x.toNat * 256 ^ B.length + bytesToNat B := by
  simpa [bytesToNat] using bytesToNat_from B (0 * 256 + x.toNat)

theorem bytesToNat_append (A B : List Byte) :
    bytesToNat (A ++ B) = bytesToNat A * 256 ^ B.length + bytesToNat B := by
  simp only [bytesToNat, List.foldl_append]
  exact bytesToNat_from B _

theorem bytesToNat_lt (B : List Byte) : bytesToNat B < 256 ^ B.length := by
  induction B with
  | nil => simp
  | cons x B ih =>
    rw [bytesToNat_cons, List.length_cons, pow_succ]
    have := x.isLt
    nlinarith

/-- The big-endian digits of m to base 256 spell m. -/
theorem bytesToNat_range (m : Nat) (L : Nat) :
    bytesToNat ((List.range L).map fun i => BitVec.ofNat 8 (m / 2 ^ (8 * (L - 1 - i)))) = m % 256 ^ L := by
  induction L generalizing m with
  | zero => simp [Nat.mod_one]
  | succ L ih =>
    rw [List.range_succ, List.map_append, bytesToNat_append]
    have h : ((List.range L).map fun i => BitVec.ofNat 8 (m / 2 ^ (8 * (L + 1 - 1 - i)))) =
        (List.range L).map fun i => BitVec.ofNat 8 (m / 256 / 2 ^ (8 * (L - 1 - i))) := by
      refine List.map_congr_left fun i hi => ?_
      have hi : i < L := by simpa using hi
      rw [Nat.div_div_eq_div_mul]
      congr 2
      rw [show (256 : Nat) = 2 ^ 8 by norm_num, ← pow_add]
      congr 1
      omega
    rw [h, ih]
    simp [bytesToNat, pow_succ']
    rw [Nat.mod_mul]
    ring

@[simp] theorem tcBytes_length (n : Int) (L : Nat) : (tcBytes n L).length = L := by simp [tcBytes]

/-- The bytes of n spell n mod 2^(8L). -/
theorem bytesToNat_tcBytes (n : Int) (L : Nat) :
    bytesToNat (tcBytes n L) = (n % 2 ^ (8 * L)).toNat := by
  rw [tcBytes, bytesToNat_range]
  push_cast
  rw [show (256 : Nat) ^ L = 2 ^ (8 * L) by rw [pow_mul]; norm_num]
  apply Nat.mod_eq_of_lt
  have h1 := Int.emod_nonneg n (show (2 : Int) ^ (8 * L) ≠ 0 by positivity)
  have h2 := Int.emod_lt_of_pos n (show (0 : Int) < 2 ^ (8 * L) by positivity)
  zify
  rw [Int.toNat_of_nonneg h1]
  exact_mod_cast h2

/-- The leading L − j bytes of n are n mod 2^(8L) over 2^(8j), the last j bytes the rest. -/
theorem bytesToNat_tcBytes_split (n : Int) (L j : Nat) (hj : j ≤ L) :
    bytesToNat ((tcBytes n L).take (L - j)) = (n % 2 ^ (8 * L)).toNat / 2 ^ (8 * j) ∧
    bytesToNat ((tcBytes n L).drop (L - j)) = (n % 2 ^ (8 * L)).toNat % 2 ^ (8 * j) := by
  have h := bytesToNat_tcBytes n L
  rw [← List.take_append_drop (L - j) (tcBytes n L), bytesToNat_append] at h
  have hl : ((tcBytes n L).drop (L - j)).length = j := by simp; omega
  have hlt := bytesToNat_lt ((tcBytes n L).drop (L - j))
  rw [hl] at h hlt
  rw [show (256 : Nat) ^ j = 2 ^ (8 * j) by rw [pow_mul]; norm_num] at h hlt
  generalize bytesToNat ((tcBytes n L).take (L - j)) = a at *
  generalize bytesToNat ((tcBytes n L).drop (L - j)) = b at *
  rw [← h]
  constructor
  · rw [mul_comm, Nat.mul_add_div (by positivity), Nat.div_eq_of_lt hlt, add_zero]
  · rw [mul_comm, Nat.mul_add_mod, Nat.mod_eq_of_lt hlt]

/-! ## The two's-complement reading -/

/-- The number an m-bit pattern spells in two's complement, from its unsigned number (R7). -/
def signedOf (m N : Nat) : Int := if 2 * N < 2 ^ m then (N : Int) else (N : Int) - 2 ^ m

theorem toInt_eq_signedOf {m : Nat} (x : BitVec m) : x.toInt = signedOf m x.toNat := by
  rw [BitVec.toInt_eq_toNat_cond, signedOf]
  push_cast
  rfl

/-- Reading back a number that fits m bits from its unsigned pattern gives it back. -/
theorem signedOf_emod {m : Nat} (hm : 1 ≤ m) {n : Int} (h1 : -2 ^ (m - 1) ≤ n) (h2 : n < 2 ^ (m - 1)) :
    signedOf m (n % 2 ^ m).toNat = n := by
  obtain ⟨m, rfl⟩ : ∃ k, m = k + 1 := ⟨m - 1, by omega⟩
  simp only [Nat.add_sub_cancel] at h1 h2
  have hp : (2 : Int) ^ (m + 1) = 2 * 2 ^ m := by rw [pow_succ]; ring
  have hpn : (2 : Nat) ^ (m + 1) = 2 * 2 ^ m := by rw [pow_succ]; ring
  have hc : (((2 : Nat) ^ m : Nat) : Int) = 2 ^ m := by push_cast; rfl
  have hpos : (0 : Int) < 2 ^ m := by positivity
  have hnn := Int.emod_nonneg n (show (2 : Int) ^ (m + 1) ≠ 0 by positivity)
  rw [signedOf, hpn, Int.toNat_of_nonneg hnn]
  rcases le_or_gt 0 n with h | h
  · rw [Int.emod_eq_of_lt h (by omega)] at *
    rw [if_pos (by omega)]
  · have : n % 2 ^ (m + 1) = n + 2 ^ (m + 1) := by
      rw [← Int.add_emod_right, Int.emod_eq_of_lt (by omega) (by omega)]
    rw [this] at *
    rw [if_neg (by omega)]
    ring

/-- A two's-complement reading lies in its range and spells the pattern it came from. -/
theorem signedOf_spec {m N : Nat} (hm : 1 ≤ m) (hN : N < 2 ^ m) :
    -2 ^ (m - 1) ≤ signedOf m N ∧ signedOf m N < 2 ^ (m - 1) ∧ signedOf m N % 2 ^ m = N := by
  obtain ⟨m, rfl⟩ : ∃ k, m = k + 1 := ⟨m - 1, by omega⟩
  simp only [Nat.add_sub_cancel]
  have hp : (2 : Int) ^ (m + 1) = 2 * 2 ^ m := by rw [pow_succ]; ring
  have hpn : (2 : Nat) ^ (m + 1) = 2 * 2 ^ m := by rw [pow_succ]; ring
  have hc : (((2 : Nat) ^ m : Nat) : Int) = 2 ^ m := by push_cast; rfl
  rw [signedOf]
  split
  · refine ⟨by omega, by omega, Int.emod_eq_of_lt (by omega) (by omega)⟩
  · refine ⟨by omega, by omega, ?_⟩
    rw [Int.sub_emod_right, Int.emod_eq_of_lt (by omega) (by omega)]

theorem tcValue_eq (B : List Byte) : tcValue B = signedOf (8 * B.length) (bytesToNat B) := by
  rw [tcValue, toInt_eq_signedOf, BitVec.toNat_ofNat, Nat.mod_eq_of_lt]
  have := bytesToNat_lt B
  rwa [show (256 : Nat) ^ B.length = 2 ^ (8 * B.length) by rw [pow_mul]; norm_num] at this

theorem bytesToNat_lt_two_pow (B : List Byte) : bytesToNat B < 2 ^ (8 * B.length) := by
  have := bytesToNat_lt B
  rwa [show (256 : Nat) ^ B.length = 2 ^ (8 * B.length) by rw [pow_mul]; norm_num] at this

/-- A byte array of two or more bytes is minimal exactly when its number needs all of them. -/
theorem minimalBytes_iff_not_shorter (B : List Byte) (hB : 2 ≤ B.length) :
    minimalBytes B = true ↔ ¬ fitsBytes (tcValue B) (B.length - 1) = true := by
  match B, hB with
  | b0 :: b1 :: R, _ =>
    have hr := bytesToNat_lt R
    rw [fitsBytes_iff, tcValue_eq, bytesToNat_cons, bytesToNat_cons, signedOf]
    simp only [List.length_cons]
    have e1 : 2 ^ (8 * (R.length + 1 + 1)) = 65536 * 256 ^ R.length := by
      rw [pow_mul, pow_succ, pow_succ]; norm_num; ring
    have e2 : (2 : Int) ^ (8 * (R.length + 1 + 1)) = 65536 * 256 ^ R.length := by exact_mod_cast e1
    have e3 : (2 : Int) ^ (8 * (R.length + 1 + 1 - 1) - 1) = 128 * 256 ^ R.length := by
      rw [show 8 * (R.length + 1 + 1 - 1) - 1 = 7 + 8 * R.length by omega, pow_add, pow_mul]; norm_num
    rw [e1, e2, e3, pow_succ]
    have h0 := b0.isLt
    have h1 := b1.isLt
    have hX : (256 : Nat) ^ R.length ≥ 1 := Nat.one_le_pow _ _ (by norm_num)
    have hm : minimalBytes (b0 :: b1 :: R) = true ↔
        ¬ (b0.toNat = 0 ∧ b1.toNat < 128) ∧ ¬ (b0.toNat = 255 ∧ 128 ≤ b1.toNat) := by
      simp [minimalBytes, ← BitVec.toNat_inj]
      omega
    rw [hm]
    push_cast
    generalize hXe : (256 : Nat) ^ R.length = X at *
    have hXi : (256 : Int) ^ R.length = X := by exact_mod_cast hXe
    rw [hXi]
    generalize bytesToNat R = r at *
    generalize b0.toNat = x at *
    generalize b1.toNat = y at *
    obtain ⟨q, hq⟩ : ∃ q, q = y * X := ⟨_, rfl⟩
    obtain ⟨z, hz⟩ : ∃ z, z = x * X := ⟨_, rfl⟩
    have hqi : (y : Int) * X = q := by rw [hq]; push_cast; rfl
    have hzi : (x : Int) * (X * 256) = 256 * z := by rw [hz]; push_cast; ring
    rw [hqi, hzi, show x * (X * 256) = 256 * z by rw [hz]; ring, ← hq]
    have hq1 : q ≤ 255 * X := by rw [hq]; exact Nat.mul_le_mul_right _ (by omega)
    have hyl : y < 128 → q ≤ 127 * X := fun h => by rw [hq]; exact Nat.mul_le_mul_right _ (by omega)
    have hyh : 128 ≤ y → 128 * X ≤ q := fun h => by rw [hq]; exact Nat.mul_le_mul_right _ h
    have hxl : x ≤ 127 → z ≤ 127 * X := fun h => by rw [hz]; exact Nat.mul_le_mul_right _ h
    have hx1 : 1 ≤ x → X ≤ z := fun h => by rw [hz]; exact Nat.le_mul_of_pos_left _ h
    have hxh : 128 ≤ x → 128 * X ≤ z := fun h => by rw [hz]; exact Nat.mul_le_mul_right _ h
    have hx2 : x ≤ 254 → z ≤ 254 * X := fun h => by rw [hz]; exact Nat.mul_le_mul_right _ h
    have hx0 : x = 0 → z = 0 := fun h => by rw [hz, h, Nat.zero_mul]
    have hx5 : x = 255 → z = 255 * X := fun h => by rw [hz, h]
    rcases (by omega : x = 0 ∨ (1 ≤ x ∧ x ≤ 127) ∨ (128 ≤ x ∧ x ≤ 254) ∨ x = 255) with h | h | h | h
    all_goals
      rcases Nat.lt_or_ge y 128 with hy | hy
      all_goals split <;> omega

end Sys2Proof.Machine
end

