-- ==== Sys2Proof/Laws/Packed.lean ====
section
/-! SUPPORT. What building and reading a packed value do (spec R60 to R92), in the field accessors. -/

namespace Sys2Proof.Machine

open Sys2Proof.Spec

/-! ## The fields of a header word that was built -/

theorem toNat_append_add {m n : Nat} (x : BitVec m) (y : BitVec n) :
    (x ++ y).toNat = x.toNat * 2 ^ n + y.toNat := by
  rw [BitVec.toNat_append, Nat.shiftLeft_eq, mul_comm, Nat.two_pow_add_eq_or_of_lt y.isLt]

/-- A header word as a number: scale, tag and lanes side by side. -/
theorem toNat_headerWord {w : Width} (hw : w ≠ .w64) (s t l : Nat) :
    (headerWord w s t l).toNat =
      (s % 16 * 2 ^ 4 + t % 16) * 2 ^ (8 * nlOf w) + l % 2 ^ (8 * nlOf w) := by
  rw [headerWord, BitVec.toNat_setWidth, toNat_append_add, toNat_append_add]
  simp only [BitVec.toNat_ofNat]
  apply Nat.mod_eq_of_lt
  cases w
  · exact absurd rfl hw
  all_goals simp only [nlOf, Width.hb]; omega

theorem sc_headerWord {w : Width} (hw : w ≠ .w64) (s t l : Nat) (b : Word64) :
    (⟨headerWord w s t l, b⟩ : Packed w).sc = BitVec.ofNat 4 s := by
  apply BitVec.eq_of_toNat_eq
  simp only [Packed.sc, BitVec.extractLsb'_toNat, toNat_headerWord hw, Nat.shiftRight_eq_div_pow,
    BitVec.toNat_ofNat]
  cases w
  · exact absurd rfl hw
  all_goals simp only [nlOf, Width.hb]; omega

theorem tag_headerWord {w : Width} (hw : w ≠ .w64) (s t l : Nat) (b : Word64) :
    (⟨headerWord w s t l, b⟩ : Packed w).tag = BitVec.ofNat 4 t := by
  apply BitVec.eq_of_toNat_eq
  simp only [Packed.tag, BitVec.extractLsb'_toNat, toNat_headerWord hw, Nat.shiftRight_eq_div_pow,
    BitVec.toNat_ofNat]
  cases w
  · exact absurd rfl hw
  all_goals simp only [nlOf, Width.hb]; omega

theorem lanes_headerWord {w : Width} (hw : w ≠ .w64) (s t l : Nat) (b : Word64) :
    (⟨headerWord w s t l, b⟩ : Packed w).lanes = BitVec.ofNat (8 * nlOf w) l := by
  apply BitVec.eq_of_toNat_eq
  simp only [Packed.lanes, BitVec.extractLsb'_toNat, toNat_headerWord hw, Nat.shiftRight_eq_div_pow,
    BitVec.toNat_ofNat]
  cases w
  · exact absurd rfl hw
  all_goals simp only [nlOf]; omega

/-- A packed value is its fields and its body. -/
theorem Packed.ext_fields {w : Width} {p q : Packed w}
    (hb : p.b = q.b) (hw : w ≠ .w64 → p.sc = q.sc ∧ p.tag = q.tag ∧ p.lanes = q.lanes) : p = q := by
  obtain ⟨h, b⟩ := p
  obtain ⟨h', b'⟩ := q
  cases hb
  congr 1
  cases w
  · exact Subsingleton.elim (α := BitVec 0) _ _
  all_goals
    obtain ⟨h1, h2, h3⟩ := hw (by decide)
    simp only [Packed.sc, Packed.tag, Packed.lanes, nlOf, Width.hb] at h1 h2 h3 h h'
    apply BitVec.eq_of_toNat_eq
    have e1 := congrArg BitVec.toNat h1
    have e2 := congrArg BitVec.toNat h2
    have e3 := congrArg BitVec.toNat h3
    have l1 := h.isLt
    have l2 := h'.isLt
    simp [Nat.shiftRight_eq_div_pow] at e1 e2 e3 l1 l2
    omega

/-! ## The packed image of a number (R87) -/

theorem fitsI64_iff (n : Int) : fitsI64 n = true ↔ -2 ^ 63 ≤ n ∧ n ≤ 2 ^ 63 - 1 := by
  simp [fitsI64]

/-- At most one packed value is the image of (u, s). -/
theorem isImage_unique {w : Width} {u : Int} {s : Nat} {p q : Packed w}
    (hp : IsImage w u s p) (hq : IsImage w u s q) : p = q := by
  refine Packed.ext_fields (hp.1.trans hq.1.symm) fun hw => ?_
  obtain ⟨p1, p2, p3⟩ := hp.2 hw
  obtain ⟨q1, q2, q3⟩ := hq.2 hw
  exact ⟨BitVec.eq_of_toNat_eq (p1.trans q1.symm), BitVec.eq_of_toNat_eq (p2.trans q2.symm),
    BitVec.eq_of_toNat_eq (by exact_mod_cast p3.trans q3.symm)⟩

theorem imageTag_of_fits {u : Int} (h : fitsI64 u = true) : imageTag u = 8 := by
  rw [imageTag, if_pos ((fitsI64_iff u).mp h)]

/-- 64 bits hold exactly the numbers of at most 8 bytes. -/
theorem fitsI64_iff_tcLen (u : Int) : fitsI64 u = true ↔ tcLen u ≤ 8 := by
  rw [fitsI64_iff, tcLen_le_iff u 8 (by norm_num)]
  norm_num
  omega

theorem imageTag_of_not_fits {u : Int} (h : ¬ fitsI64 u = true) : imageTag u = tcLen u := by
  rw [imageTag, if_neg (fun h' => h ((fitsI64_iff u).mpr h'))]

/-- The Compact layout is the image of a number that fits 64 bits. -/
theorem isImage_compact (w : Width) {u : Int} {s : Nat} (hs : s ≤ 6) (h : fitsI64 u = true) :
    IsImage w u s (compact w s u) := by
  refine ⟨rfl, fun hw => ?_⟩
  rw [compact, sc_headerWord hw, tag_headerWord hw, lanes_headerWord hw, imageTag_of_fits h]
  refine ⟨?_, by simp, by simp⟩
  simp only [BitVec.toNat_ofNat]
  omega

theorem emod_mul_ediv (a b c : Int) (hb : 0 < b) : a % (b * c) / b = a / b % c := by
  rw [Int.emod_def, Int.emod_def, mul_assoc, sub_eq_add_neg, ← mul_neg, Int.add_mul_ediv_left _ _ hb.ne',
    Int.ediv_ediv_of_nonneg hb.le]
  ring

/-- The Extended layout is the image of a number of 8 bytes or more, up to the width's ceiling. -/
theorem isImage_extended {w : Width} {u : Int} {s : Nat} (hs : s ≤ 6) (h8 : 8 ≤ tcLen u)
    (hl : tcLen u ≤ lmaxOf w) : IsImage w u s (extended w s u) := by
  obtain ⟨ht, hd⟩ := bytesToNat_tcBytes_split u (tcLen u) 8 h8
  have hnn := Int.emod_nonneg u (show (2 : Int) ^ (8 * tcLen u) ≠ 0 by positivity)
  have hpow : (2 : Int) ^ (8 * tcLen u) = 2 ^ 64 * 2 ^ (8 * (tcLen u - 8)) := by
    rw [← pow_add]; congr 1; omega
  have htag : imageTag u = tcLen u := by
    by_cases hf : fitsI64 u = true
    · rw [imageTag_of_fits hf]; have := (fitsI64_iff_tcLen u).mp hf; omega
    · exact imageTag_of_not_fits hf
  constructor
  · apply BitVec.eq_of_toNat_eq
    simp only [extended, hd, BitVec.toNat_ofNat, BitVec.toNat_ofInt]
    zify
    rw [Int.toNat_of_nonneg hnn, Int.toNat_of_nonneg (Int.emod_nonneg _ (by norm_num)), hpow]
    norm_num [Int.emod_emod_of_dvd]
  · intro hw
    have htl : tcLen u ≤ 15 := hl.trans (by cases w <;> simp [lmaxOf])
    rw [extended, sc_headerWord hw, tag_headerWord hw, lanes_headerWord hw, htag]
    refine ⟨by simp only [BitVec.toNat_ofNat]; omega, by simp only [BitVec.toNat_ofNat]; omega, ?_⟩
    simp only [ht, BitVec.toNat_ofNat]
    push_cast
    rw [Int.toNat_of_nonneg hnn, hpow, show (2 : Int) ^ 64 = 18446744073709551616 by norm_num,
      emod_mul_ediv _ _ _ (by norm_num)]
    apply Int.emod_eq_of_lt (Int.emod_nonneg _ (by positivity))
    refine lt_of_lt_of_le (Int.emod_lt_of_pos _ (by positivity)) ?_
    refine pow_le_pow_right₀ (by norm_num) ?_
    cases w
    · exact absurd rfl hw
    all_goals simp only [lmaxOf, nlOf] at *; omega

/-! ## `pack` and `repack` -/

theorem minOf_le_maxOf_bounds {c : Config} (hc : c.Legal) (w : Width) :
    minOf c w ≤ -2 ^ 63 ∧ 2 ^ 63 - 1 ≤ maxOf c w ∧
      -2 ^ (8 * lmaxOf w - 1) ≤ minOf c w ∧ maxOf c w ≤ 2 ^ (8 * lmaxOf w - 1) - 1 := by
  obtain ⟨h1, h2, h3, h4, -, -⟩ := hc
  cases w <;> simp only [minOf, maxOf, lmaxOf] <;> norm_num at * <;> omega

theorem tcLen_le_lmaxOf {c : Config} (hc : c.Legal) {w : Width} {u : Int} (hu : InRange c w u) :
    tcLen u ≤ lmaxOf w := by
  obtain ⟨-, -, h3, h4⟩ := minOf_le_maxOf_bounds hc w
  obtain ⟨h1, h2⟩ := hu
  rw [tcLen_le_iff u _ (by cases w <;> simp [lmaxOf])]
  omega

theorem inRange_of_fits {c : Config} (hc : c.Legal) (w : Width) {u : Int} (hu : fitsI64 u = true) :
    InRange c w u := by
  obtain ⟨h1, h2, -, -⟩ := minOf_le_maxOf_bounds hc w
  rw [fitsI64_iff] at hu
  exact ⟨by omega, by omega⟩

theorem fits_of_digits {u : Int} (h : digits u ≤ 18) : fitsI64 u = true := by
  rw [digits_le_iff u 18 (by norm_num)] at h
  rw [fitsI64_iff]
  omega

theorem eight_le_tcLen {u : Int} (h : ¬ digits u ≤ 18) : 8 ≤ tcLen u := by
  rw [digits_le_iff u 18 (by norm_num)] at h
  by_contra h8
  have h7 : tcLen u ≤ 7 := by omega
  rw [tcLen_le_iff u 7 (by norm_num)] at h7
  norm_num at h7
  omega

/-- All `pack` can do (R86): the image of a number in range, ValueTooLarge above, ValueTooSmall below. -/
theorem pack_cases {c : Config} (hc : c.Legal) {w : Width} {u : Int} {s : Nat} (hs : s ≤ 6) :
    (InRange c w u ∧ ∃ p, pack c w u s = .ok p ∧ IsImage w u s p) ∨
    (maxOf c w < u ∧ pack c w u s = .error .valueTooLarge) ∨
    (u < minOf c w ∧ pack c w u s = .error .valueTooSmall) := by
  rw [pack]
  split
  · next hd =>
    exact .inl ⟨inRange_of_fits hc w (fits_of_digits hd), _, rfl, isImage_compact w hs (fits_of_digits hd)⟩
  · next hd =>
    split
    · next h => exact .inr (.inl ⟨h, rfl⟩)
    · next h1 =>
      split
      · next h => exact .inr (.inr ⟨h, rfl⟩)
      · next h2 =>
        have hu : InRange c w u := ⟨by omega, by omega⟩
        exact .inl ⟨hu, _, rfl, isImage_extended hs (eight_le_tcLen hd) (tcLen_le_lmaxOf hc hu)⟩

/-- All `repack` can do (R116): the image of a number in range, ArithmeticOverflow otherwise. -/
theorem repack_cases {c : Config} (hc : c.Legal) {w : Width} {t : Int} {s : Nat} (hs : s ≤ 6) :
    (InRange c w t ∧ ∃ p, repack c w t s = .ok p ∧ IsImage w t s p) ∨
    (¬ InRange c w t ∧ repack c w t s = .error .arithmeticOverflow) := by
  rw [repack]
  split
  · next hw =>
    subst hw
    split
    · next h =>
      exact .inl ⟨inRange_of_fits hc _ h, _, rfl, rfl, fun hn => absurd rfl hn⟩
    · next h => exact .inr ⟨fun h' => h ((fitsI64_iff t).mpr h'), rfl⟩
  · obtain ⟨h, p, hp, hi⟩ | ⟨h, hp⟩ | ⟨h, hp⟩ := pack_cases hc (w := w) (u := t) hs
    · exact .inl ⟨h, p, by rw [hp]; rfl, hi⟩
    · exact .inr ⟨fun h' => by have := h'.2; omega, by rw [hp]; rfl⟩
    · exact .inr ⟨fun h' => by have := h'.1; omega, by rw [hp]; rfl⟩

/-- In range, `repack` gives the one image of (t, s). -/
theorem repack_of_isImage {c : Config} (hc : c.Legal) {w : Width} {t : Int} {s : Nat} (hs : s ≤ 6)
    {p : Packed w} (ht : InRange c w t) (hp : IsImage w t s p) : repack c w t s = .ok p := by
  obtain ⟨-, q, hq, hi⟩ | ⟨h, -⟩ := repack_cases hc (w := w) (t := t) hs
  · rw [hq, isImage_unique hp hi]
  · exact absurd ht h

/-! ## Reading a packed value -/

theorem toNat_bodyBytes {w : Width} (p : Packed w) : bytesToNat p.bodyBytes = p.b.toNat := by
  have := p.b.isLt
  simp [Packed.bodyBytes, List.range_succ, bytesToNat, Nat.shiftRight_eq_div_pow]
  omega

theorem toNat_laneBytes {w : Width} (p : Packed w) (k : Nat) (hk : k ≤ nlOf w) :
    bytesToNat (p.laneBytes k) = p.lanes.toNat % 2 ^ (8 * k) := by
  induction k with
  | zero => simp [Packed.laneBytes, Nat.mod_one]
  | succ k ih =>
    have h : p.laneBytes (k + 1) = p.lane k :: p.laneBytes k := by
      simp [Packed.laneBytes, List.range_succ]
    have hl : (p.laneBytes k).length = k := by simp [Packed.laneBytes]
    rw [h, bytesToNat_cons, ih (by omega), hl]
    simp only [Packed.lane, BitVec.extractLsb'_toNat, Nat.shiftRight_eq_div_pow]
    rw [show 8 * (k + 1) = 8 * k + 8 by ring, pow_add (2 : Nat), Nat.mod_mul,
      show (256 : Nat) ^ k = 2 ^ (8 * k) by rw [pow_mul]; norm_num]
    ring

theorem length_magBytes {w : Width} (p : Packed w) (k : Nat) : (p.magBytes k).length = k + 8 := by
  simp [Packed.magBytes, Packed.laneBytes, Packed.bodyBytes]

theorem toNat_magBytes {w : Width} (p : Packed w) (k : Nat) (hk : k ≤ nlOf w) :
    bytesToNat (p.magBytes k) = p.lanes.toNat % 2 ^ (8 * k) * 2 ^ 64 + p.b.toNat := by
  have hl : p.bodyBytes.length = 8 := by simp [Packed.bodyBytes]
  rw [Packed.magBytes, bytesToNat_append, toNat_laneBytes p k hk, toNat_bodyBytes, hl]
  norm_num

/-- The number `unpack` reads from an Extended value is the one its magnitude bytes spell. -/
theorem toInt_lanes_body {w : Width} (p : Packed w) (k : Nat) (hk : k ≤ nlOf w) :
    (p.lanes.extractLsb' 0 (8 * k) ++ p.b).toInt = tcValue (p.magBytes k) := by
  rw [toInt_eq_signedOf, tcValue_eq, length_magBytes, toNat_magBytes p k hk, toNat_append_add]
  simp [show 8 * (k + 8) = 8 * k + 64 by ring]

/-- What `unpack` reads, by the tag. -/
theorem unpack_w64 (p : Packed .w64) : unpack p = (p.b.toInt, 6) := by simp [unpack]

theorem unpack_compact {w : Width} (hw : w ≠ .w64) {p : Packed w} (h : p.tag = 8#4) :
    unpack p = (p.b.toInt, p.sc.toNat) := by simp [unpack, hw, h]

theorem unpack_extended {w : Width} (hw : w ≠ .w64) {p : Packed w} (h : 9 ≤ p.tag.toNat)
    (hl : p.tag.toNat ≤ lmaxOf w) :
    unpack p = (tcValue (p.magBytes (p.tag.toNat - 8)), p.sc.toNat) := by
  have h8 : p.tag ≠ 8#4 := by rintro h8; rw [h8] at h; simp at h
  have hk : p.tag.toNat - 8 ≤ nlOf w := by
    cases w
    · exact absurd rfl hw
    all_goals simp only [lmaxOf, nlOf] at *; omega
  simp only [unpack, hw, h8, if_false]
  rw [toInt_lanes_body p _ hk]

/-! ## Canonical values are exactly the images of numbers in range -/

/-- The scale a value of width w may have as an image: 6 at W = 64, at most 6 elsewhere. -/
def ScaleOk (w : Width) (s : Nat) : Prop := s ≤ 6 ∧ (w = .w64 → s = 6)

/-- An image of a number in range is canonical, and reads back as the number. -/
theorem canonical_of_isImage {c : Config} (hc : c.Legal) {w : Width} {u : Int} {s : Nat}
    {p : Packed w} (hu : InRange c w u) (hs : ScaleOk w s) (hp : IsImage w u s p) :
    canonical c p = true ∧ unpack p = (u, s) := by
  obtain ⟨hb, hf⟩ := hp
  by_cases hw : w = .w64
  · subst hw
    refine ⟨by simp [canonical], ?_⟩
    obtain ⟨h1, h2⟩ := hu
    simp only [minOf, maxOf] at h1 h2
    rw [unpack_w64, hs.2 rfl, hb, BitVec.toInt_ofInt_eq_self (by norm_num) (by omega) (by omega)]
  · obtain ⟨hsc, htag, hlanes⟩ := hf hw
    by_cases h64 : fitsI64 u = true
    · rw [imageTag_of_fits h64] at htag hlanes
      have ht : p.tag = 8#4 := BitVec.eq_of_toNat_eq (by simpa using htag)
      have hl : p.lanes = 0#_ := BitVec.eq_of_toNat_eq (by simpa using hlanes)
      rw [fitsI64_iff] at h64
      refine ⟨?_, ?_⟩
      · simp [canonical, canonicalCompact, ht, hl, hsc, hs.1]
      · rw [unpack_compact hw ht, hsc, hb,
          BitVec.toInt_ofInt_eq_self (by norm_num) (by omega) (by omega)]
    · have hL := tcLen_le_lmaxOf hc hu
      have h9 : 9 ≤ tcLen u := by rw [fitsI64_iff_tcLen] at h64; omega
      rw [imageTag_of_not_fits h64] at htag hlanes
      have hk : tcLen u - 8 ≤ nlOf w := by
        cases w
        · exact absurd rfl hw
        all_goals simp only [lmaxOf, nlOf] at *; omega
      have hll : p.lanes.toNat < 2 ^ (8 * (tcLen u - 8)) := by
        zify
        rw [hlanes]
        exact Int.emod_lt_of_pos _ (by positivity)
      have hpow : (2 : Int) ^ (8 * tcLen u) = 2 ^ 64 * 2 ^ (8 * (tcLen u - 8)) := by
        rw [← pow_add]; congr 1; omega
      have hval : tcValue (p.magBytes (tcLen u - 8)) = u := by
        have hbits : bytesToNat (p.magBytes (tcLen u - 8)) = (u % 2 ^ (8 * tcLen u)).toNat := by
          rw [toNat_magBytes p _ hk, Nat.mod_eq_of_lt hll, hb, BitVec.toNat_ofInt]
          zify
          rw [hlanes, Int.toNat_of_nonneg (Int.emod_nonneg _ (by norm_num)),
            Int.toNat_of_nonneg (Int.emod_nonneg _ (by positivity)), hpow,
            ← emod_mul_ediv _ _ _ (by norm_num)]
          have := Int.emod_add_mul_ediv (u % (2 ^ 64 * 2 ^ (8 * (tcLen u - 8)))) (2 ^ 64)
          rw [Int.emod_emod_of_dvd _ (Dvd.intro _ rfl)] at this
          conv_rhs => rw [← this]
          push_cast
          ring
        have hfit := (tcLen_spec u).2.1
        rw [fitsBytes_iff] at hfit
        rw [tcValue_eq, length_magBytes, hbits, show 8 * (tcLen u - 8 + 8) = 8 * tcLen u by omega]
        exact signedOf_emod (by omega) hfit.1 hfit.2
      have hmin : minimalBytes (p.magBytes (tcLen u - 8)) = true := by
        rw [minimalBytes_iff_not_shorter _ (by rw [length_magBytes]; omega), hval, length_magBytes]
        intro h
        have := (tcLen_spec u).2.2 _ (by omega) h
        omega
      have h8 : p.tag ≠ 8#4 := by rintro h8; rw [h8] at htag; simp at htag; omega
      refine ⟨?_, ?_⟩
      · have hsh : p.lanes >>> (8 * (tcLen u - 8)) = 0#_ := by
          apply BitVec.eq_of_toNat_eq
          simp [Nat.shiftRight_eq_div_pow, hll]
        have hr1 := hu.1
        have hr2 := hu.2
        simp only [canonical, canonicalExtended, htag, hval, hmin, hsc, hsh]
        simp [hs.1, h9, hL, hr1, hr2]
      · rw [unpack_extended hw (by omega) (by omega), htag, hval, hsc]

/-- A canonical value is the image of the number it reads as, which is in range. -/
theorem isImage_of_canonical {c : Config} (hc : c.Legal) {w : Width} {p : Packed w}
    (h : canonical c p = true) :
    InRange c w (unpack p).1 ∧ ScaleOk w (unpack p).2 ∧ IsImage w (unpack p).1 (unpack p).2 p := by
  by_cases hw : w = .w64
  · subst hw
    rw [unpack_w64]
    have h1 := BitVec.le_toInt p.b
    have h2 := BitVec.toInt_lt (x := p.b)
    refine ⟨⟨?_, ?_⟩, ⟨le_rfl, fun _ => rfl⟩, by simp, fun hn => absurd rfl hn⟩
    · simp only [minOf]; norm_num at *; omega
    · simp only [maxOf]; norm_num at *; omega
  · simp only [canonical, Bool.or_eq_true, Bool.and_eq_true, beq_iff_eq, hw, false_or,
      decide_eq_true_eq] at h
    obtain ⟨hsc, h | h⟩ := h
    · simp only [canonicalCompact, Bool.and_eq_true, beq_iff_eq] at h
      obtain ⟨ht, hl⟩ := h
      rw [unpack_compact hw ht]
      have h1 := BitVec.le_toInt p.b
      have h2 := BitVec.toInt_lt (x := p.b)
      have hf : fitsI64 p.b.toInt = true := by rw [fitsI64_iff]; norm_num at *; omega
      refine ⟨inRange_of_fits hc w hf, ⟨hsc, fun hn => absurd hn hw⟩, by simp, fun _ => ⟨rfl, ?_, ?_⟩⟩
      · simp [imageTag_of_fits hf, ht]
      · simp [imageTag_of_fits hf, hl]
    · simp only [canonicalExtended, Bool.and_eq_true, beq_iff_eq, decide_eq_true_eq] at h
      obtain ⟨⟨⟨⟨h9, hL⟩, hsh⟩, hmin⟩, hr⟩ := h
      rw [unpack_extended hw h9 hL]
      have hk : p.tag.toNat - 8 ≤ nlOf w := by
        cases w
        · exact absurd rfl hw
        all_goals simp only [lmaxOf, nlOf] at *; omega
      have hll : p.lanes.toNat < 2 ^ (8 * (p.tag.toNat - 8)) := by
        have := congrArg BitVec.toNat hsh
        simpa [Nat.shiftRight_eq_div_pow] using this
      obtain ⟨u, hu⟩ : ∃ u, u = tcValue (p.magBytes (p.tag.toNat - 8)) := ⟨_, rfl⟩
      have hlen := length_magBytes p (p.tag.toNat - 8)
      have hmin' := (minimalBytes_iff_not_shorter _ (by rw [hlen]; omega)).mp hmin
      have hspec := signedOf_spec (m := 8 * (p.magBytes (p.tag.toNat - 8)).length)
        (by rw [hlen]; omega) (bytesToNat_lt_two_pow _)
      rw [← tcValue_eq, ← hu, hlen, show 8 * (p.tag.toNat - 8 + 8) = 8 * p.tag.toNat by omega,
        toNat_magBytes p _ hk, Nat.mod_eq_of_lt hll] at hspec
      rw [← hu, hlen] at hmin'
      rw [← hu] at hr ⊢
      have htl : tcLen u = p.tag.toNat := by
        have h1 : tcLen u ≤ p.tag.toNat :=
          (tcLen_spec u).2.2 _ (by omega) ((fitsBytes_iff _ _).mpr ⟨hspec.1, hspec.2.1⟩)
        have h2 : ¬ tcLen u ≤ p.tag.toNat - 1 := fun hle =>
          hmin' (by
            rw [show p.tag.toNat - 8 + 8 - 1 = p.tag.toNat - 1 by omega]
            exact fitsBytes_mono hle (tcLen_spec u).2.1)
        omega
      have hit : imageTag u = p.tag.toNat := by
        rw [imageTag_of_not_fits, htl]
        rw [fitsI64_iff_tcLen]
        omega
      have hb := p.b.isLt
      have hpow : (2 : Int) ^ (8 * p.tag.toNat) = 2 ^ 64 * 2 ^ (8 * (p.tag.toNat - 8)) := by
        rw [← pow_add]; congr 1; omega
      have hmod := hspec.2.2
      refine ⟨hr, ⟨hsc, fun hn => absurd hn hw⟩, ?_, fun _ => ⟨rfl, hit.symm, ?_⟩⟩
      · apply BitVec.eq_of_toNat_eq
        rw [BitVec.toNat_ofInt]
        have : u % 2 ^ 64 = p.b.toNat := by
          rw [← Int.emod_emod_of_dvd u (show (2 : Int) ^ 64 ∣ 2 ^ (8 * p.tag.toNat) by
            rw [hpow]; exact Dvd.intro _ rfl), hmod]
          norm_num
          omega
        norm_num at this ⊢
        omega
      · rw [hit, ← emod_mul_ediv _ _ _ (by norm_num), ← hpow, hmod]
        norm_num
        omega

/-! ## The value model -/

/-- All `normalizeScale` can do for a scale ≤ 6 (R84). -/
theorem normalizeScale_eq {s : Int} (hs : s ≤ 6) (u : Int) :
    normalizeScale u s = (u * 10 ^ (-s).toNat, s.toNat) ∧ s.toNat ≤ 6 := by
  refine ⟨?_, by omega⟩
  rw [normalizeScale]
  split
  · rw [pow10_eq, show s.toNat = 0 by omega]
  · rw [show (-s).toNat = 0 by omega, pow_zero, mul_one]

@[simp] theorem unscaled_valueOf (u : Int) (s : Nat) : unscaled (valueOf u s) = u := by
  simp only [unscaled, valueOf, decide_eq_true_eq]
  split <;> omega

/-- A signed port word that fits its port, in two's complement (R7, R70). -/
theorem sintPort_eq {c : Config} (h : 1 ≤ c.scW) {x : Nat} (hx : x < 2 ^ c.scW) :
    sintPort c x = if x < 2 ^ (c.scW - 1) then (x : Int) else x - 2 ^ c.scW := by
  rw [sintPort, toInt_eq_signedOf, signedOf, BitVec.toNat_ofNat, Nat.mod_eq_of_lt hx]
  obtain ⟨m, hm⟩ : ∃ m, c.scW = m + 1 := ⟨c.scW - 1, by omega⟩
  rw [hm, pow_succ, Nat.add_sub_cancel]
  congr 1
  simp; omega

end Sys2Proof.Machine
end

