-- ==== Sys2Proof/Laws/PerInstr.lean ====
section
/-! SUPPORT. Facts about every operation as syntax, one lemma per constructor. -/

namespace Sys2Proof.Laws

/-- The command word of an operation has `RSV` = 0, the `WSEL` of its width and the `OP` of its
operation (spec R50 to R52), and decodes to it. -/
def EncodeDecode.Statement (i : Instr) : Prop :=
  cmdRsv (encode i) = 0#2 ∧ cmdWsel (encode i) = wselOf i.width ∧ cmdOp (encode i) = nibbleOf i.op ∧
    decode (encode i) = .ok i

theorem EncodeDecode.enc64 : EncodeDecode.Statement .enc64 := ⟨rfl, rfl, rfl, rfl⟩
theorem EncodeDecode.dec64 : EncodeDecode.Statement .dec64 := ⟨rfl, rfl, rfl, rfl⟩
theorem EncodeDecode.add64 : EncodeDecode.Statement .add64 := ⟨rfl, rfl, rfl, rfl⟩
theorem EncodeDecode.sub64 : EncodeDecode.Statement .sub64 := ⟨rfl, rfl, rfl, rfl⟩
theorem EncodeDecode.neg64 : EncodeDecode.Statement .neg64 := ⟨rfl, rfl, rfl, rfl⟩
theorem EncodeDecode.rsc64 : EncodeDecode.Statement .rsc64 := ⟨rfl, rfl, rfl, rfl⟩
theorem EncodeDecode.cmp64 : EncodeDecode.Statement .cmp64 := ⟨rfl, rfl, rfl, rfl⟩
theorem EncodeDecode.eq64 : EncodeDecode.Statement .eq64 := ⟨rfl, rfl, rfl, rfl⟩
theorem EncodeDecode.hash64 : EncodeDecode.Statement .hash64 := ⟨rfl, rfl, rfl, rfl⟩
theorem EncodeDecode.enc96 : EncodeDecode.Statement .enc96 := ⟨rfl, rfl, rfl, rfl⟩
theorem EncodeDecode.dec96 : EncodeDecode.Statement .dec96 := ⟨rfl, rfl, rfl, rfl⟩
theorem EncodeDecode.add96 : EncodeDecode.Statement .add96 := ⟨rfl, rfl, rfl, rfl⟩
theorem EncodeDecode.sub96 : EncodeDecode.Statement .sub96 := ⟨rfl, rfl, rfl, rfl⟩
theorem EncodeDecode.neg96 : EncodeDecode.Statement .neg96 := ⟨rfl, rfl, rfl, rfl⟩
theorem EncodeDecode.rsc96 : EncodeDecode.Statement .rsc96 := ⟨rfl, rfl, rfl, rfl⟩
theorem EncodeDecode.cmp96 : EncodeDecode.Statement .cmp96 := ⟨rfl, rfl, rfl, rfl⟩
theorem EncodeDecode.eq96 : EncodeDecode.Statement .eq96 := ⟨rfl, rfl, rfl, rfl⟩
theorem EncodeDecode.hash96 : EncodeDecode.Statement .hash96 := ⟨rfl, rfl, rfl, rfl⟩
theorem EncodeDecode.enc128 : EncodeDecode.Statement .enc128 := ⟨rfl, rfl, rfl, rfl⟩
theorem EncodeDecode.dec128 : EncodeDecode.Statement .dec128 := ⟨rfl, rfl, rfl, rfl⟩
theorem EncodeDecode.add128 : EncodeDecode.Statement .add128 := ⟨rfl, rfl, rfl, rfl⟩
theorem EncodeDecode.sub128 : EncodeDecode.Statement .sub128 := ⟨rfl, rfl, rfl, rfl⟩
theorem EncodeDecode.neg128 : EncodeDecode.Statement .neg128 := ⟨rfl, rfl, rfl, rfl⟩
theorem EncodeDecode.rsc128 : EncodeDecode.Statement .rsc128 := ⟨rfl, rfl, rfl, rfl⟩
theorem EncodeDecode.cmp128 : EncodeDecode.Statement .cmp128 := ⟨rfl, rfl, rfl, rfl⟩
theorem EncodeDecode.eq128 : EncodeDecode.Statement .eq128 := ⟨rfl, rfl, rfl, rfl⟩
theorem EncodeDecode.hash128 : EncodeDecode.Statement .hash128 := ⟨rfl, rfl, rfl, rfl⟩

end Sys2Proof.Laws
end

