-- ==== Sys2Proof/Tests/Slice0.lean ====
section
/-! SUPPORT. The model's own tests: command words written out bit by bit, ill-formed builds and port
words, one step on operands of the spec's test vectors (V<n> of 95_test_vectors.md and
96_test_vectors_arithmetic.md), and for every statement with hypotheses a state that meets them. -/

namespace Sys2Proof.Tests

open Sys2Proof.Machine Sys2Proof.Spec

/-! ## Small states -/

/-- A request with a value operand. -/
def valueReq (cmd : Cmd) (neg : BitVec 1) (mag scale : Nat) : Request :=
  { Request.zero with cmd := cmd, vNeg := neg, vMag := mag, vScale := scale }

/-- A request with packed operands and a new scale. -/
def packedReq (cmd : Cmd) (aH aB bH bB : Word64) (ns : Nat) : Request :=
  { Request.zero with cmd := cmd, aH := aH, aB := aB, bH := bH, bB := bB, ns := ns }

/-- The machine after reset with one request offered. -/
def offering (q : Request) : State := { State.reset with requests := [q] }

/-- The machine after reset with a request taken, before its operation runs. -/
def sampled (q : Request) : State := { State.reset with req := q }

/-- The responses one step leaves pending. -/
def answerTo (q : Request) : List Response :=
  match step (offering q) with
  | .next t => t.responses
  | .fault _ => []
  | .refused _ => []

/-! ## Command words, bit by bit: RSV, WSEL, OP (R50, R51, R52) -/

theorem test_decode_enc64 : decode 0b00000000#8 = .ok .enc64 := by decide
theorem test_decode_dec64 : decode 0b00000001#8 = .ok .dec64 := by decide
theorem test_decode_add64 : decode 0b00000010#8 = .ok .add64 := by decide
theorem test_decode_sub64 : decode 0b00000011#8 = .ok .sub64 := by decide
theorem test_decode_neg64 : decode 0b00000100#8 = .ok .neg64 := by decide
theorem test_decode_rsc64 : decode 0b00000101#8 = .ok .rsc64 := by decide
theorem test_decode_cmp64 : decode 0b00000110#8 = .ok .cmp64 := by decide
theorem test_decode_eq64 : decode 0b00000111#8 = .ok .eq64 := by decide
theorem test_decode_hash64 : decode 0b00001000#8 = .ok .hash64 := by decide
theorem test_decode_enc96 : decode 0b00010000#8 = .ok .enc96 := by decide
theorem test_decode_dec96 : decode 0b00010001#8 = .ok .dec96 := by decide
theorem test_decode_add96 : decode 0b00010010#8 = .ok .add96 := by decide
theorem test_decode_sub96 : decode 0b00010011#8 = .ok .sub96 := by decide
theorem test_decode_neg96 : decode 0b00010100#8 = .ok .neg96 := by decide
theorem test_decode_rsc96 : decode 0b00010101#8 = .ok .rsc96 := by decide
theorem test_decode_cmp96 : decode 0b00010110#8 = .ok .cmp96 := by decide
theorem test_decode_eq96 : decode 0b00010111#8 = .ok .eq96 := by decide
theorem test_decode_hash96 : decode 0b00011000#8 = .ok .hash96 := by decide
theorem test_decode_enc128 : decode 0b00100000#8 = .ok .enc128 := by decide
theorem test_decode_dec128 : decode 0b00100001#8 = .ok .dec128 := by decide
theorem test_decode_add128 : decode 0b00100010#8 = .ok .add128 := by decide
theorem test_decode_sub128 : decode 0b00100011#8 = .ok .sub128 := by decide
theorem test_decode_neg128 : decode 0b00100100#8 = .ok .neg128 := by decide
theorem test_decode_rsc128 : decode 0b00100101#8 = .ok .rsc128 := by decide
theorem test_decode_cmp128 : decode 0b00100110#8 = .ok .cmp128 := by decide
theorem test_decode_eq128 : decode 0b00100111#8 = .ok .eq128 := by decide
theorem test_decode_hash128 : decode 0b00101000#8 = .ok .hash128 := by decide

/-- V135 to V141. -/
theorem test_decode_reserved : decode 0x09#8 = .error .reservedOp ∧ decode 0x0F#8 = .error .reservedOp ∧
    decode 0x19#8 = .error .reservedOp ∧ decode 0x2F#8 = .error .reservedOp ∧
    decode 0x30#8 = .error .reservedWidth ∧ decode 0x38#8 = .error .reservedWidth ∧
    decode 0x40#8 = .error .reservedBits ∧ decode 0x80#8 = .error .reservedBits ∧
    decode 0xC0#8 = .error .reservedBits ∧ decode 0xFF#8 = .error .reservedBits := by decide

/-! ## Well-formedness: each check refuses an ill-formed term (R6, R13) -/

theorem test_default_build_is_legal : Config.default.Legal := by decide
theorem test_illegal_max96_low : ¬ ({ Config.default with max96 := 2 ^ 63 - 2 } : Config).Legal := by decide
theorem test_illegal_max96_high : ¬ ({ Config.default with max96 := 2 ^ 87 } : Config).Legal := by decide
theorem test_illegal_min96_low : ¬ ({ Config.default with min96 := -2 ^ 87 - 1 } : Config).Legal := by decide
theorem test_illegal_min96_high : ¬ ({ Config.default with min96 := -2 ^ 63 + 1 } : Config).Legal := by decide
theorem test_illegal_max128_low : ¬ ({ Config.default with max128 := 2 ^ 63 - 2 } : Config).Legal := by decide
theorem test_illegal_max128_high : ¬ ({ Config.default with max128 := 2 ^ 119 } : Config).Legal := by decide
theorem test_illegal_min128_low : ¬ ({ Config.default with min128 := -2 ^ 119 - 1 } : Config).Legal := by decide
theorem test_illegal_min128_high : ¬ ({ Config.default with min128 := -2 ^ 63 + 1 } : Config).Legal := by decide
theorem test_illegal_magnitude_port : ¬ ({ Config.default with magW := 119 } : Config).Legal := by decide
theorem test_illegal_scale_port : ¬ ({ Config.default with scW := 3 } : Config).Legal := by decide
theorem test_request_fits : (valueReq 0#8 1#1 (2 ^ 128 - 1) 255).Fits Config.default := by decide
theorem test_unfit_magnitude : ¬ (valueReq 0#8 0#1 (2 ^ 128) 0).Fits Config.default := by decide
theorem test_unfit_scale : ¬ (valueReq 0#8 0#1 0 256).Fits Config.default := by decide
theorem test_unfit_new_scale : ¬ (packedReq 0#8 0#64 0#64 0#64 0#64 256).Fits Config.default := by decide

/-! ## One step on operands of the spec's vectors. A scale of −3 on the port is 256 − 3. -/

/-- V78. -/
theorem test_enc64_result : answerTo (valueReq 0x00#8 0#1 12345678 3) =
    [.packed .w64 ⟨0#0, 0x00000002DFDC18B0#64⟩] := by decide
/-- V83. -/
theorem test_enc64_too_small : answerTo (valueReq 0x00#8 1#1 9223372036854775809 6) =
    [.err .valueTooSmall] := by decide
/-- V22. -/
theorem test_enc96_extended : answerTo (valueReq 0x10#8 1#1 9223372036854775809 4) =
    [.packed .w96 ⟨0x490000FF#32, 0x7FFFFFFFFFFFFFFF#64⟩] := by decide
/-- V37. -/
theorem test_enc96_too_large : answerTo (valueReq 0x10#8 0#1 154742504910672534362390528 0) =
    [.err .valueTooLarge] := by decide
/-- V56: a negative scale. -/
theorem test_enc128_normalizes : answerTo (valueReq 0x20#8 1#1 1 (256 - 27)) =
    [.packed .w128 ⟨0x0C000000FCC4D1C3#64, 0x602F7FC318000000#64⟩] := by decide
/-- V70. -/
theorem test_enc128_scale : answerTo (valueReq 0x20#8 0#1 3 9) = [.err .scaleTooLarge] := by decide

/-- V115. -/
theorem test_dec64_smallest : answerTo (packedReq 0x01#8 0#64 0x8000000000000000#64 0#64 0#64 0) =
    [.value ⟨true, 9223372036854775808, 6⟩] := by decide
/-- V108. -/
theorem test_dec128_min : answerTo (packedReq 0x21#8 0x0F80000000000000#64 0#64 0#64 0#64 0) =
    [.value ⟨true, 664613997892457936451903530140172288, 0⟩] := by decide
/-- V134: tag 9 and lane 1 not zero. -/
theorem test_dec128_reserved :
    answerTo (packedReq 0x21#8 0x09000000000001FF#64 0x7FFFFFFFFFFFFFFF#64 0#64 0#64 0) =
    [.err .nonCanonicalOperand] := by decide

/-- V190. -/
theorem test_add64_result : answerTo (packedReq 0x02#8 0#64 0xFFFFFFFFFFFFFFFF#64 0#64 1#64 0) =
    [.packed .w64 ⟨0#0, 0#64⟩] := by decide
/-- V193. -/
theorem test_add64_overflow : answerTo (packedReq 0x02#8 0#64 0x7FFFFFFFFFFFFFFF#64 0#64 1#64 0) =
    [.err .arithmeticOverflow] := by decide
/-- V157: alignment overflows 64 bits. -/
theorem test_add96_slow : answerTo (packedReq 0x12#8 0x08000000#64 0x001FF973CAFA8000#64 0x68000000#64 1#64 0) =
    [.packed .w96 ⟨0x6A0001E7#32, 0xE4171BF4D3A00001#64⟩] := by decide
/-- V182. -/
theorem test_add128_extended : answerTo
    (packedReq 0x22#8 0x0B000000007FFFFF#64 0xFFFFFFFFFFFFFFFF#64 0x6800000000000000#64 1#64 0) =
    [.packed .w128 ⟨0x6E0007A11FFFFFFF#64, 0xFFFFFFFFFFF0BDC1#64⟩] := by decide
/-- V183. -/
theorem test_add128_overflow : answerTo
    (packedReq 0x22#8 0x0F7FFFFFFFFFFFFF#64 0xFFFFFFFFFFFFFFFF#64 0x0800000000000000#64 1#64 0) =
    [.err .arithmeticOverflow] := by decide

/-- V197: −1 − (−2^63). -/
theorem test_sub64_result : answerTo (packedReq 0x03#8 0#64 0xFFFFFFFFFFFFFFFF#64 0#64 0x8000000000000000#64 0) =
    [.packed .w64 ⟨0#0, 0x7FFFFFFFFFFFFFFF#64⟩] := by decide
/-- V196: 0 − (−2^63). -/
theorem test_sub64_overflow : answerTo (packedReq 0x03#8 0#64 0#64 0#64 0x8000000000000000#64 0) =
    [.err .arithmeticOverflow] := by decide
/-- V150. -/
theorem test_sub96_result : answerTo (packedReq 0x13#8 0x18000000#64 0xF#64 0x28000000#64 0xE1#64 0) =
    [.packed .w96 ⟨0x28000000#32, 0xFFFFFFFFFFFFFFB5#64⟩] := by decide
/-- V174: −1 − MIN_96. -/
theorem test_sub96_min : answerTo (packedReq 0x13#8 0x08000000#64 0xFFFFFFFFFFFFFFFF#64 0x0B800000#64 0#64 0) =
    [.packed .w96 ⟨0x0B7FFFFF#32, 0xFFFFFFFFFFFFFFFF#64⟩] := by decide
/-- V188: 15 bytes to 14. -/
theorem test_sub128_shrinks : answerTo (packedReq 0x23#8 0x0F00800000000000#64 0#64 0x0800000000000000#64 1#64 0) =
    [.packed .w128 ⟨0x0E007FFFFFFFFFFF#64, 0xFFFFFFFFFFFFFFFF#64⟩] := by decide
/-- V184. -/
theorem test_sub128_overflow : answerTo (packedReq 0x23#8 0x0F80000000000000#64 0#64 0x0800000000000000#64 1#64 0) =
    [.err .arithmeticOverflow] := by decide

/-- V223. -/
theorem test_neg64_result : answerTo (packedReq 0x04#8 0#64 0x8000000000000001#64 0#64 0#64 0) =
    [.packed .w64 ⟨0#0, 0x7FFFFFFFFFFFFFFF#64⟩] := by decide
/-- V224. -/
theorem test_neg64_overflow : answerTo (packedReq 0x04#8 0#64 0x8000000000000000#64 0#64 0#64 0) =
    [.err .arithmeticOverflow] := by decide
/-- V205: raw −2^63. -/
theorem test_neg96_widens : answerTo (packedReq 0x14#8 0x48000000#64 0x8000000000000000#64 0#64 0#64 0) =
    [.packed .w96 ⟨0x49000000#32, 0x8000000000000000#64⟩] := by decide
/-- V206. -/
theorem test_neg96_narrows : answerTo (packedReq 0x14#8 0x49000000#64 0x8000000000000000#64 0#64 0#64 0) =
    [.packed .w96 ⟨0x48000000#32, 0x8000000000000000#64⟩] := by decide
/-- V216. -/
theorem test_neg128_max : answerTo (packedReq 0x24#8 0x0F7FFFFFFFFFFFFF#64 0xFFFFFFFFFFFFFFFF#64 0#64 0#64 0) =
    [.packed .w128 ⟨0x0F80000000000000#64, 1#64⟩] := by decide
/-- V217. -/
theorem test_neg128_overflow : answerTo (packedReq 0x24#8 0x0F80000000000000#64 0#64 0#64 0#64 0) =
    [.err .arithmeticOverflow] := by decide

/-- V263. -/
theorem test_rsc64_identity : answerTo (packedReq 0x05#8 0#64 0x8000000000000000#64 0#64 0#64 6) =
    [.packed .w64 ⟨0#0, 0x8000000000000000#64⟩] := by decide
/-- V262: ns = −1. -/
theorem test_rsc64_invalid : answerTo (packedReq 0x05#8 0#64 5#64 0#64 0#64 255) = [.err .invalidScale] := by
  decide
/-- V241. -/
theorem test_rsc96_flag : answerTo (packedReq 0x15#8 0x58000000#64 0xF333333333333333#64 0#64 0#64 6) =
    [.packed .w96 ⟨0x690000FF#32, 0x7FFFFFFFFFFFFFFE#64⟩] := by decide
/-- V234: zero is not narrowed either. -/
theorem test_rsc96_narrow : answerTo (packedReq 0x15#8 0x68000000#64 0#64 0#64 0#64 0) = [.err .invalidScale] := by
  decide
/-- V256. -/
theorem test_rsc128_extended : answerTo (packedReq 0x25#8 0x0D000001431E0FAE#64 0x6D7217CAA0000000#64 0#64 0#64 6) =
    [.packed .w128 ⟨0x6F13426172C74D82#64, 0x2B878FE800000000#64⟩] := by decide
/-- V257. -/
theorem test_rsc128_overflow : answerTo (packedReq 0x25#8 0x0D00000C9F2C9CD0#64 0x4674EDEA40000000#64 0#64 0#64 6) =
    [.err .arithmeticOverflow] := by decide

/-- V286. -/
theorem test_cmp64_less : answerTo (packedReq 0x06#8 0#64 0x8000000000000000#64 0#64 0x7FFFFFFFFFFFFFFF#64 0) =
    [.scalar 0xFFFFFFFF#32] := by decide
/-- V284. -/
theorem test_cmp64_greater : answerTo (packedReq 0x06#8 0#64 1#64 0#64 0xFFFFFFFFFFFFFFFF#64 0) =
    [.scalar 1#32] := by decide
/-- V274: equal numbers, Compact and Extended. -/
theorem test_cmp96_equal : answerTo
    (packedReq 0x16#8 0x08000000#64 0x7CE66C50E2840000#64 0x6B0771D2#64 0xFA45345AA9000000#64 0) =
    [.scalar 0#32] := by decide
/-- V275. -/
theorem test_cmp96_less : answerTo (packedReq 0x16#8 0x0B800000#64 0#64 0x6B7FFFFF#64 0xFFFFFFFFFFFFFFFF#64 0) =
    [.scalar 0xFFFFFFFF#32] := by decide
/-- V283. -/
theorem test_cmp128_less : answerTo
    (packedReq 0x26#8 0x6D00000C9F2C9CD0#64 0x4674EDEA40000000#64 0x0B0000000000D3C2#64 0x1BCECCEDA1000001#64 0) =
    [.scalar 0xFFFFFFFF#32] := by decide
/-- V281. -/
theorem test_cmp128_greater : answerTo
    (packedReq 0x26#8 0x0F7FFFFFFFFFFFFF#64 0xFFFFFFFFFFFFFFFF#64 0x6F80000000000000#64 0#64 0) =
    [.scalar 1#32] := by decide

/-- V285, with header ports that differ: W = 64 has no header word (R13). -/
theorem test_eq64_ignores_header : answerTo (packedReq 0x07#8 1#64 7#64 2#64 7#64 0) = [.scalar 1#32] := by decide
/-- V284. -/
theorem test_eq64_differs : answerTo (packedReq 0x07#8 0#64 1#64 0#64 0xFFFFFFFFFFFFFFFF#64 0) =
    [.scalar 0#32] := by decide
/-- V264: equal numbers, different bits. -/
theorem test_eq96_differs : answerTo (packedReq 0x17#8 0x08000000#64 2#64 0x28000000#64 200#64 0) =
    [.scalar 0#32] := by decide
/-- V265, with junk above the 32-bit header word (R13). -/
theorem test_eq96_low_header : answerTo (packedReq 0x17#8 0xFF08000000#64 2#64 0x08000000#64 2#64 0) =
    [.scalar 1#32] := by decide
/-- V280. -/
theorem test_eq128_differs : answerTo (packedReq 0x27#8 0x0800000000000000#64 2#64 0x2800000000000000#64 200#64 0) =
    [.scalar 0#32] := by decide
/-- R135: reserved patterns compare too. -/
theorem test_eq128_reserved : answerTo (packedReq 0x27#8 1#64 5#64 1#64 5#64 0) = [.scalar 1#32] := by decide

/-- R144: the body word alone is hashed. -/
theorem test_hash64 : answerTo (packedReq 0x08#8 1#64 5#64 0#64 0#64 0) = [.scalar (Config.hashfn64 5#64)] := rfl
/-- R145: the low 32 bits of the header port, and the body. -/
theorem test_hash96 : answerTo (packedReq 0x18#8 0xFF00000001#64 5#64 0#64 0#64 0) =
    [.scalar (Config.hashfn96 1#32 5#64)] := rfl
/-- R146. -/
theorem test_hash128 : answerTo (packedReq 0x28#8 1#64 5#64 0#64 0#64 0) =
    [.scalar (Config.hashfn128 1#64 5#64)] := rfl

/-! ## The ports, the channels, and a placed command -/

/-- V145: the header word in the low 32 bits of `r_h`, and junk above a 96-bit header is not read. -/
theorem test_ports_of_add96 :
    (answerTo (packedReq 0x12#8 0xFFFFFFFF18000000#64 0xF#64 0x28000000#64 0xE1#64 0)).map (Response.ports Config.default) =
    [⟨0#4, 0x28000000#64, 0x177#64, 0#1, 0, 0, 0#32⟩] := by decide
/-- V147, V117: an error response carries only its code. -/
theorem test_ports_of_error :
    (answerTo (packedReq 0x11#8 0x78000000#64 1#64 0#64 0#64 0)).map (Response.ports Config.default) =
    [⟨6#4, 0#64, 0#64, 0#1, 0, 0, 0#32⟩] := by decide
/-- V105: the value port, from a magnitude of ten bytes. -/
theorem test_ports_of_dec96 :
    (answerTo (packedReq 0x11#8 0x0A00FF7F#64 0xFFFFFFFFFFFFFFFF#64 0#64 0#64 0)).map (Response.ports Config.default) =
    [⟨0#4, 0#64, 0#64, 1#1, 2361183241434822606849, 0, 0#32⟩] := by decide
/-- V139. -/
theorem test_illegal_command : answerTo (packedReq 0x38#8 0#64 0#64 0#64 0#64 0) = [.err .illegalCommand] := by
  decide

/-- R170: a step with `rst` = 1 drops what is pending and takes nothing. -/
theorem test_reset_drops : step { offering Request.zero with rst := true, responses := [.scalar 1#32] } =
    .next { offering Request.zero with rst := true } := rfl
/-- R23: the oldest response is delivered. -/
theorem test_delivers_oldest :
    step { State.reset with rspReady := true, responses := [.scalar 1#32, .scalar 0#32] } =
    .next { State.reset with rspReady := true, responses := [.scalar 0#32], delivered := [.scalar 1#32] } := rfl
/-- The host's reading of the table: HASH.128 is word 0x28 of 8 bits, and a placed command runs. -/
theorem test_table_word : decodeTableWord 8 0x28 = some .hash128 ∧ decodeTableWord 8 0x29 = none := by decide
theorem test_placed_command : step (State.reset.withFetchWord 8 0x00) =
    exec .enc64 (sampled Request.zero) := rfl

/-! ## Witnesses: for every statement with hypotheses, concrete values that meet them together, one
theorem per clause or group of clauses, at the values where clauses meet. -/

theorem witness_StepRunsTheDecodedCommand : (offering (valueReq 0x20#8 0#1 1 0)).rst = false ∧
    (offering (valueReq 0x20#8 0#1 1 0)).requests = [valueReq 0x20#8 0#1 1 0] ∧
    decode (valueReq 0x20#8 0#1 1 0).cmd = .ok .enc128 := by decide

/-- Both clauses, at the last defined and the first reserved word of each kind. -/
theorem witness_ReservedCommandsAnswerIllegalCommand :
    (offering (valueReq 0x09#8 0#1 0 0)).rst = false ∧
    (offering (valueReq 0x09#8 0#1 0 0)).requests = [valueReq 0x09#8 0#1 0 0] ∧
    Reserved 0x09#8 ∧ Reserved 0x30#8 ∧ Reserved 0x40#8 ∧ ¬ Reserved 0x08#8 ∧ ¬ Reserved 0x28#8 := by
  unfold Reserved; decide

theorem witness_EncodeAndDecodeAgree : decode 0x28#8 = .ok .hash128 := by decide

/-- Three clauses: not ready, nothing pending, and a response delivered. -/
theorem witness_ResponseChannelDeliversOldestFirst :
    (State.reset.rst = false ∧ State.reset.requests = [] ∧ State.reset.rspReady = false ∧
      State.reset.responses = []) ∧
    ∃ s : State, s.rst = false ∧ s.requests = [] ∧ s.rspReady = true ∧ s.responses = [.scalar 1#32] :=
  ⟨by decide, { State.reset with rspReady := true, responses := [.scalar 1#32] }, by decide⟩

/-- A request of each kind, offered while a response is pending. -/
theorem witness_ResetDropsUndeliveredResponses :
    (∃ s : State, s.rst = true ∧ s.responses ≠ [] ∧ s.requests = [valueReq 0x00#8 0#1 1 0] ∧
      decode (valueReq 0x00#8 0#1 1 0).cmd = .ok .enc64) ∧
    (∃ s : State, s.rst = true ∧ s.requests = [valueReq 0x30#8 0#1 1 0] ∧ Reserved 0x30#8) :=
  ⟨⟨{ offering (valueReq 0x00#8 0#1 1 0) with rst := true, responses := [.scalar 1#32] }, by decide⟩,
    ⟨{ offering (valueReq 0x30#8 0#1 1 0) with rst := true }, rfl, rfl, .inr (.inl (by decide))⟩⟩

theorem witness_ResponseIsAFunctionOfTheRequestAlone :
    ∃ (s : State) (q : Request) (rest : List Request), s.rst = false ∧ s.requests = q :: rest :=
  ⟨offering Request.zero, Request.zero, [], by decide⟩

theorem witness_EveryRequestIsAnsweredOnceInOrder :
    ∃ s : State, s.rst = false ∧ s.requests.length = 2 :=
  ⟨{ State.reset with requests := [valueReq 0x00#8 0#1 1 0, valueReq 0x30#8 0#1 1 0] }, by decide⟩

/-- A state with a pending and a delivered response, whose next step answers. -/
theorem witness_EveryStepKeepsResponsesSound : ∃ s t : State, s.Inv ∧ step s = .next t ∧
    s.requests ≠ [] ∧ s.responses ≠ [] ∧ s.delivered ≠ [] := by
  refine ⟨{ offering (valueReq 0x00#8 0#1 1 0) with
    rspReady := true, responses := [.packed .w96 ⟨0x08000000#32, 1#64⟩], delivered := [.value ⟨true, 1, 6⟩] },
    _, ⟨by decide, by decide, by decide, ?_, ?_⟩, rfl, by decide, by decide, by decide⟩
  · intro x hx
    obtain rfl := List.mem_singleton.mp hx
    show canonical Config.default (⟨0x08000000#32, 1#64⟩ : Packed .w96) = true
    decide
  · intro x hx
    obtain rfl := List.mem_singleton.mp hx
    exact ⟨by decide, by decide, by decide⟩

/-- Two samples that differ in every field NEG.64 does not read. -/
theorem witness_UnreadRequestFieldsHaveNoEffect : ∃ s t : State, s.cfg = t.cfg ∧
    AgreeOnReads .neg64 s.req t.req ∧ s.req ≠ t.req :=
  ⟨sampled (packedReq 0x04#8 0#64 1#64 0#64 0#64 0),
    sampled ⟨0x04#8, 9#64, 1#64, 8#64, 7#64, 1#1, 6, 5, 4⟩, rfl,
    ⟨fun _ => by decide, by simp [Instr.op], by simp [Instr.op], by simp [Instr.op]⟩, by decide⟩

/-- Every error kind but IllegalCommand is reported by some operation (V4, V231, V37, V39, V224, V119). -/
theorem witness_OperationsReportOnlyTheirOwnErrors : Config.default.Legal ∧
    (∃ s : State, s.cfg = Config.default ∧ exec .enc96 s = .next (s.answer (.err .scaleTooLarge))) ∧
    (∃ s : State, s.cfg = Config.default ∧ exec .rsc96 s = .next (s.answer (.err .invalidScale))) ∧
    (∃ s : State, s.cfg = Config.default ∧ exec .enc96 s = .next (s.answer (.err .valueTooLarge))) ∧
    (∃ s : State, s.cfg = Config.default ∧ exec .enc96 s = .next (s.answer (.err .valueTooSmall))) ∧
    (∃ s : State, s.cfg = Config.default ∧ exec .neg64 s = .next (s.answer (.err .arithmeticOverflow))) ∧
    (∃ s : State, s.cfg = Config.default ∧ exec .dec96 s = .next (s.answer (.err .nonCanonicalOperand))) :=
  ⟨by decide,
    ⟨sampled (valueReq 0x10#8 0#1 0 7), rfl, rfl⟩,
    ⟨sampled (packedReq 0x15#8 0x08000000#64 2#64 0#64 0#64 255), rfl, rfl⟩,
    ⟨sampled (valueReq 0x10#8 0#1 154742504910672534362390528 0), rfl, rfl⟩,
    ⟨sampled (valueReq 0x10#8 1#1 154742504910672534362390529 0), rfl, rfl⟩,
    ⟨sampled (packedReq 0x04#8 0#64 0x8000000000000000#64 0#64 0#64 0), rfl, rfl⟩,
    ⟨sampled (packedReq 0x11#8 0x07000000#64 1#64 0#64 0#64 0), rfl, rfl⟩⟩

theorem witness_DigitsIsTheLeastDecimalLength :
    |(10 ^ 18 - 1 : Int)| < 10 ^ 18 ∧ ¬ |(10 ^ 18 : Int)| < 10 ^ 18 ∧ |(-10 ^ 18 : Int)| < 10 ^ 19 := by decide

theorem witness_ByteLengthIsTheShortest :
    (-2 ^ (8 * 8 - 1) ≤ (-2 ^ 63 : Int) ∧ (-2 ^ 63 : Int) ≤ 2 ^ (8 * 8 - 1) - 1) ∧
    ¬ (2 ^ 63 : Int) ≤ 2 ^ (8 * 8 - 1) - 1 := by decide

/-- Both parts: a number at each end of one byte, and byte arrays on both sides of minimality. -/
theorem witness_TwosComplementBytesReadBack :
    (-2 ^ (8 * 1 - 1) ≤ (-128 : Int) ∧ (127 : Int) ≤ 2 ^ (8 * 1 - 1) - 1) ∧
    minimalBytes [0xFF#8, 0x7F#8] = true ∧ minimalBytes [0xFF#8, 0x80#8] = false ∧
    minimalBytes [0x00#8, 0x80#8] = true ∧ minimalBytes [0x00#8, 0x7F#8] = false ∧
    minimalBytes [0x00#8] = true := by decide

theorem witness_ExtendedOfEightBytesIsTheCompactImage :
    Config.default.Legal ∧ digits (10 ^ 18) = 19 ∧ digits (2 ^ 63 - 1) = 19 ∧ digits (-2 ^ 63) = 19 ∧ digits (-10 ^ 18) = 19 := by
  decide

theorem witness_ExtendedBytesStandRightAligned :
    tcLen (10 ^ 18) = 8 ∧ tcLen (2 ^ 63) = 9 ∧ tcLen (2 ^ 87 - 1) = lmaxOf .w96 ∧
    tcLen (-2 ^ 119) = lmaxOf .w128 := by decide

/-- Each way to be reserved, one step past a canonical pattern (V117, V119, V121, V123, V124, V125; the
range at a build with a smaller `MAX_96`), and the third part's premises. -/
theorem witness_ReservedPatternsAreTheseAndNoOthers :
    canonical Config.default (⟨0x78000000#32, 1#64⟩ : Packed .w96) = false ∧
    canonical Config.default (⟨0x68000000#32, 1#64⟩ : Packed .w96) = true ∧
    canonical Config.default (⟨0x07000000#32, 1#64⟩ : Packed .w96) = false ∧
    canonical Config.default (⟨0x0C000001#32, 0#64⟩ : Packed .w96) = false ∧
    canonical Config.default (⟨0x08000001#32, 5#64⟩ : Packed .w96) = false ∧
    canonical Config.default (⟨0x09010000#32, 0x8000000000000000#64⟩ : Packed .w96) = false ∧
    canonical Config.default (⟨0x09000000#32, 0x7FFFFFFFFFFFFFFF#64⟩ : Packed .w96) = false ∧
    canonical Config.default (⟨0x0B7FFFFF#32, 0xFFFFFFFFFFFFFFFF#64⟩ : Packed .w96) = true ∧
    canonical { Config.default with max96 := 2 ^ 63 - 1 } (⟨0x0B7FFFFF#32, 0xFFFFFFFFFFFFFFFF#64⟩ : Packed .w96) = false ∧
    Config.default.Legal ∧ (⟨0x09000000#32, 0#64⟩ : Packed .w96).tag = 9#4 ∧
    minOf Config.default .w96 = -2 ^ (8 * lmaxOf .w96 - 1) ∧ maxOf Config.default .w96 = 2 ^ (8 * lmaxOf .w96 - 1) - 1 := by
  decide

/-- A Compact and two Extended tags, the smallest and the largest. -/
theorem witness_UnpackReadsTheMagnitudeBytes :
    (⟨0x68000000#32, 1#64⟩ : Packed .w96).tag = 8#4 ∧ (⟨0x49000000#32, 0#64⟩ : Packed .w96).tag = 9#4 ∧
    (⟨0x0F80000000000000#64, 0#64⟩ : Packed .w128).tag = 15#4 ∧ lmaxOf .w128 = 15 := by decide

/-- An integer at the top of the range packs, the next does not. -/
theorem witness_PackHasOneClosedForm : Config.default.Legal ∧
    pack Config.default .w96 (2 ^ 87 - 1) 6 = .ok ⟨0x6B7FFFFF#32, 0xFFFFFFFFFFFFFFFF#64⟩ ∧
    pack Config.default .w96 (2 ^ 87) 6 = .error .valueTooLarge ∧
    pack Config.default .w96 (-2 ^ 87 - 1) 6 = .error .valueTooSmall := by decide

theorem witness_PackAndUnpackAreInverse : Config.default.Legal ∧
    pack Config.default .w128 (-2 ^ 119) 0 = .ok ⟨0x0F80000000000000#64, 0#64⟩ ∧
    canonical Config.default (⟨0x0F80000000000000#64, 0#64⟩ : Packed .w128) = true := by decide

theorem witness_CanonicalExactlyWhatEncodeProduces :
    Config.default.Legal ∧ canonical Config.default (⟨0x0B800000#32, 0#64⟩ : Packed .w96) = true ∧
    canonical Config.default (⟨0x0B000000#32, 0#64⟩ : Packed .w96) = false := by decide

/-- Scales on both sides of the sign bit, and negative zero. -/
theorem witness_OperandPortsReadAsTheirTypes : 4 ≤ Config.default.scW ∧
    (valueReq 0#8 1#1 0 127).Fits Config.default ∧ (valueReq 0#8 1#1 (2 ^ 128 - 1) 128).Fits Config.default ∧
    (packedReq 0#8 0#64 0#64 0#64 0#64 255).Fits Config.default := by decide

/-- Both clauses: −1, 0 and 6. -/
theorem witness_NormalizationKeepsTheNumber : ((-1 : Int) ≤ 6 ∧ (-1 : Int) < 0) ∧ (0 : Int) ≤ 0 ∧ (6 : Int) ≤ 6 := by
  decide

/-- The top of the range at the largest scale, in state and operands together (V40). -/
theorem witness_EncodeTaggedResults : ∃ (s : State) (v : Value) (u : Int), s.cfg.Legal ∧
    v = s.req.value s.cfg ∧ u = unscaled v * 10 ^ (-v.scale).toNat ∧ v.scale ≤ 6 ∧ InRange s.cfg .w96 u :=
  ⟨sampled (valueReq 0x10#8 0#1 154742504910672534362390527 6), _, _, by decide, rfl, rfl, by decide,
    by decide, by decide⟩

/-- The other clauses: one above and one below the range (V37, V39), one past the largest scale (V11). -/
theorem witness_EncodeTaggedResults_errors :
    (∃ (s : State) (v : Value) (u : Int), s.cfg.Legal ∧ v = s.req.value s.cfg ∧
      u = unscaled v * 10 ^ (-v.scale).toNat ∧ v.scale ≤ 6 ∧ u = maxOf s.cfg .w96 + 1) ∧
    (∃ (s : State) (v : Value) (u : Int), s.cfg.Legal ∧ v = s.req.value s.cfg ∧
      u = unscaled v * 10 ^ (-v.scale).toNat ∧ v.scale ≤ 6 ∧ u = minOf s.cfg .w96 - 1) ∧
    (∃ (s : State) (v : Value), s.cfg.Legal ∧ v = s.req.value s.cfg ∧ v.scale = 7) :=
  ⟨⟨sampled (valueReq 0x10#8 0#1 154742504910672534362390528 0), _, _, by decide, rfl, rfl, by decide, by decide⟩,
    ⟨sampled (valueReq 0x10#8 1#1 154742504910672534362390529 0), _, _, by decide, rfl, rfl, by decide, by decide⟩,
    ⟨sampled (valueReq 0x10#8 0#1 1 7), _, by decide, rfl, by decide⟩⟩

/-- Four clauses, at the ends of 64 bits (V80, V81, V83) and one past the largest scale (V89). -/
theorem witness_EncodeMantissaResults :
    (∃ (s : State) (v : Value) (m : Int), v = s.req.value s.cfg ∧ m = unscaled v * 10 ^ (6 - v.scale).toNat ∧
      v.scale ≤ 6 ∧ m = 2 ^ 63 - 1) ∧
    (∃ (s : State) (v : Value) (m : Int), v = s.req.value s.cfg ∧ m = unscaled v * 10 ^ (6 - v.scale).toNat ∧
      v.scale ≤ 6 ∧ m = 2 ^ 63) ∧
    (∃ (s : State) (v : Value) (m : Int), v = s.req.value s.cfg ∧ m = unscaled v * 10 ^ (6 - v.scale).toNat ∧
      v.scale ≤ 6 ∧ m = -2 ^ 63 - 1) ∧
    (∃ (s : State) (v : Value), v = s.req.value s.cfg ∧ v.scale = 7) :=
  ⟨⟨sampled (valueReq 0x00#8 0#1 9223372036854775807 6), _, _, rfl, rfl, by decide, by decide⟩,
    ⟨sampled (valueReq 0x00#8 0#1 9223372036854775808 6), _, _, rfl, rfl, by decide, by decide⟩,
    ⟨sampled (valueReq 0x00#8 1#1 9223372036854775809 6), _, _, rfl, rfl, by decide, by decide⟩,
    ⟨sampled (valueReq 0x00#8 0#1 1 7), _, rfl, by decide⟩⟩

/-- Three clauses: the least number of W = 128 (V108), a reserved operand (V119), and any at W = 64. -/
theorem witness_DecodeResultsFitTheValuePort :
    (∃ (s : State) (a : Packed .w128), s.cfg.Legal ∧ a = s.req.packedA .w128 ∧ canonical s.cfg a = true) ∧
    (∃ (s : State) (a : Packed .w96), s.cfg.Legal ∧ a = s.req.packedA .w96 ∧ canonical s.cfg a = false) ∧
    (∃ (s : State) (a : Packed .w64), s.cfg.Legal ∧ a = s.req.packedA .w64) :=
  ⟨⟨sampled (packedReq 0x21#8 0x0F80000000000000#64 0#64 0#64 0#64 0), _, by decide, rfl, by decide⟩,
    ⟨sampled (packedReq 0x11#8 0x07000000#64 1#64 0#64 0#64 0), _, by decide, rfl, by decide⟩,
    ⟨sampled (packedReq 0x01#8 0#64 1#64 0#64 0#64 0), _, by decide, rfl⟩⟩

/-- V35: a negative scale, at W = 96; and V77 at W = 64. -/
theorem witness_DecodeUndoesEncode : Config.default.Legal ∧
    (∃ s t : State, ∃ p, s.cfg = Config.default ∧ t.cfg = s.cfg ∧
      exec (instrOf .w96 .enc) s = .next (s.answer (.packed .w96 p)) ∧ t.req.packedA .w96 = p) ∧
    (∃ s t : State, ∃ p, s.cfg = Config.default ∧ t.cfg = s.cfg ∧
      exec (instrOf .w64 .enc) s = .next (s.answer (.packed .w64 p)) ∧ t.req.packedA .w64 = p) :=
  ⟨by decide,
    ⟨sampled (valueReq 0x10#8 0#1 1 (256 - 26)),
      sampled (packedReq 0x11#8 0x0B52B7D2#64 0xDCC80CD2E4000000#64 0#64 0#64 0),
      ⟨0x0B52B7D2#32, 0xDCC80CD2E4000000#64⟩, rfl, rfl, rfl, rfl⟩,
    ⟨sampled (valueReq 0x00#8 0#1 200 2), sampled (packedReq 0x01#8 0#64 0x1E8480#64 0#64 0#64 0),
      ⟨0#0, 0x1E8480#64⟩, rfl, rfl, rfl, rfl⟩⟩

/-- V7 and V8 at W = 96 (the same number, other bits); V76 and V77 at W = 64 (the same bits). -/
theorem witness_EncodingsTellInputsApart : Config.default.Legal ∧
    (∃ s t : State, ∃ p q, s.cfg = Config.default ∧ t.cfg = s.cfg ∧
      exec (instrOf .w96 .enc) s = .next (s.answer (.packed .w96 p)) ∧
      exec (instrOf .w96 .enc) t = .next (t.answer (.packed .w96 q)) ∧ p ≠ q) ∧
    (∃ s t : State, ∃ p q, s.cfg = Config.default ∧ t.cfg = s.cfg ∧
      exec (instrOf .w64 .enc) s = .next (s.answer (.packed .w64 p)) ∧
      exec (instrOf .w64 .enc) t = .next (t.answer (.packed .w64 q)) ∧ p = q) :=
  ⟨by decide,
    ⟨sampled (valueReq 0x10#8 0#1 2 0), sampled (valueReq 0x10#8 0#1 200 2),
      ⟨0x08000000#32, 2#64⟩, ⟨0x28000000#32, 200#64⟩, rfl, rfl, rfl, rfl, by decide⟩,
    ⟨sampled (valueReq 0x00#8 0#1 2 0), sampled (valueReq 0x00#8 0#1 200 2),
      ⟨0#0, 0x1E8480#64⟩, ⟨0#0, 0x1E8480#64⟩, rfl, rfl, rfl, rfl, rfl⟩⟩

/-- Each flag on both sides of its limit. -/
theorem witness_CheckedPrimitivesFlagExactlyOverflow :
    addo64 (2 ^ 63 - 1) 1 = .ovf ∧ addo64 (2 ^ 63 - 2) 1 = .fits (2 ^ 63 - 1) ∧
    subo64 0 (-2 ^ 63) = .ovf ∧ subo64 (-1) (-2 ^ 63) = .fits (2 ^ 63 - 1) ∧
    mulo64 922337203685477581 10 = .ovf ∧ mulo64 922337203685477580 10 = .fits 9223372036854775800 := by decide

/-- Canonical operands, the Compact pair of V157; and a scale to widen to. -/
theorem witness_FastPathAgreesWithSlowPath : Config.default.Legal ∧
    canonical Config.default (⟨0x08000000#32, 0x001FF973CAFA8000#64⟩ : Packed .w96) = true ∧
    canonical Config.default (⟨0x68000000#32, 1#64⟩ : Packed .w96) = true ∧
    (unpack (⟨0x08000000#32, 0x001FF973CAFA8000#64⟩ : Packed .w96)).2 ≤ 0 ∧
    (unpack (⟨0x68000000#32, 1#64⟩ : Packed .w96)).2 = 6 := by decide

/-- Three clauses: exactly `MAX_96` (V172), one past it, and a reserved operand. -/
theorem witness_AddSubResults :
    (∃ (s : State) (a b : Packed .w96) (k : Nat) (t : Int), s.cfg.Legal ∧ a = s.req.packedA .w96 ∧
      b = s.req.packedB .w96 ∧ k = max (unpack a).2 (unpack b).2 ∧
      t = AddOp.add.exact ((unpack a).1 * 10 ^ (k - (unpack a).2)) ((unpack b).1 * 10 ^ (k - (unpack b).2)) ∧
      canonical s.cfg a = true ∧ canonical s.cfg b = true ∧ t = maxOf s.cfg .w96) ∧
    (∃ (s : State) (a b : Packed .w96) (k : Nat) (t : Int), s.cfg.Legal ∧ a = s.req.packedA .w96 ∧
      b = s.req.packedB .w96 ∧ k = max (unpack a).2 (unpack b).2 ∧
      t = AddOp.add.exact ((unpack a).1 * 10 ^ (k - (unpack a).2)) ((unpack b).1 * 10 ^ (k - (unpack b).2)) ∧
      canonical s.cfg a = true ∧ canonical s.cfg b = true ∧ t = maxOf s.cfg .w96 + 1) ∧
    (∃ (s : State) (a b : Packed .w96), s.cfg.Legal ∧ a = s.req.packedA .w96 ∧ b = s.req.packedB .w96 ∧
      canonical s.cfg a = true ∧ canonical s.cfg b = false) :=
  ⟨⟨sampled (packedReq 0x12#8 0x0B7FFFFF#64 0xFFFFFFFFFFFFFFFE#64 0x08000000#64 1#64 0), _, _, _, _,
      by decide, rfl, rfl, rfl, rfl, by decide, by decide, by decide⟩,
    ⟨sampled (packedReq 0x12#8 0x0B7FFFFF#64 0xFFFFFFFFFFFFFFFF#64 0x08000000#64 1#64 0), _, _, _, _,
      by decide, rfl, rfl, rfl, rfl, by decide, by decide, by decide⟩,
    ⟨sampled (packedReq 0x12#8 0x08000000#64 1#64 0x07000000#64 1#64 0), _, _, by decide, rfl, rfl,
      by decide, by decide⟩⟩

/-- Three clauses: the largest result (V211), one past it (V212), and a reserved operand. -/
theorem witness_NegateResults :
    (∃ (s : State) (a : Packed .w96), s.cfg.Legal ∧ a = s.req.packedA .w96 ∧ canonical s.cfg a = true ∧
      -(unpack a).1 = maxOf s.cfg .w96) ∧
    (∃ (s : State) (a : Packed .w96), s.cfg.Legal ∧ a = s.req.packedA .w96 ∧ canonical s.cfg a = true ∧
      -(unpack a).1 = maxOf s.cfg .w96 + 1) ∧
    (∃ (s : State) (a : Packed .w96), s.cfg.Legal ∧ a = s.req.packedA .w96 ∧ canonical s.cfg a = false) :=
  ⟨⟨sampled (packedReq 0x14#8 0x1B800000#64 1#64 0#64 0#64 0), _, by decide, rfl, by decide, by decide⟩,
    ⟨sampled (packedReq 0x14#8 0x1B800000#64 0#64 0#64 0#64 0), _, by decide, rfl, by decide, by decide⟩,
    ⟨sampled (packedReq 0x14#8 0x07000000#64 1#64 0#64 0#64 0), _, by decide, rfl, by decide⟩⟩

/-- The result clause at `ns` = 0 (V225) and at `ns` = 6 (V238). -/
theorem witness_RescaleResults :
    (∃ (s : State) (a : Packed .w96) (n t : Int), s.cfg.Legal ∧ a = s.req.packedA .w96 ∧
      n = s.req.newScale s.cfg ∧ t = (unpack a).1 * 10 ^ (n - (unpack a).2).toNat ∧
      canonical s.cfg a = true ∧ n = 0 ∧ (unpack a).2 ≤ n ∧ InRange s.cfg .w96 t) ∧
    (∃ (s : State) (a : Packed .w96) (n t : Int), s.cfg.Legal ∧ a = s.req.packedA .w96 ∧
      n = s.req.newScale s.cfg ∧ t = (unpack a).1 * 10 ^ (n - (unpack a).2).toNat ∧
      canonical s.cfg a = true ∧ n = 6 ∧ (unpack a).2 ≤ n ∧ InRange s.cfg .w96 t) :=
  ⟨⟨sampled (packedReq 0x15#8 0x08000000#64 2#64 0#64 0#64 0), _, _, _, by decide, rfl, rfl, rfl, by decide,
      by decide, by decide, by decide, by decide⟩,
    ⟨sampled (packedReq 0x15#8 0x58000000#64 0x0CCCCCCCCCCCCCCC#64 0#64 0#64 6), _, _, _, by decide, rfl, rfl, rfl,
      by decide, by decide, by decide, by decide, by decide⟩⟩

/-- The error clauses: out of range (V249); `ns` of 7 (V230), of −1 (V231) and one below the stored scale
(V228); a reserved operand. -/
theorem witness_RescaleResults_errors :
    (∃ (s : State) (a : Packed .w96) (n t : Int), s.cfg.Legal ∧ a = s.req.packedA .w96 ∧
      n = s.req.newScale s.cfg ∧ t = (unpack a).1 * 10 ^ (n - (unpack a).2).toNat ∧
      canonical s.cfg a = true ∧ 0 ≤ n ∧ n ≤ 6 ∧ (unpack a).2 ≤ n ∧ maxOf s.cfg .w96 < t) ∧
    (∀ n : Int, n = 7 ∨ n = -1 ∨ n = 1 → ∃ (s : State) (a : Packed .w96), s.cfg.Legal ∧
      a = s.req.packedA .w96 ∧ n = s.req.newScale s.cfg ∧ canonical s.cfg a = true ∧ (unpack a).2 = 2) ∧
    (∃ (s : State) (a : Packed .w96), s.cfg.Legal ∧ a = s.req.packedA .w96 ∧ canonical s.cfg a = false) := by
  refine ⟨⟨sampled (packedReq 0x15#8 0x0B0CCCCC#64 0xCCCCCCCCCCCCCCCD#64 0#64 0#64 1), _, _, _, by decide, rfl,
    rfl, rfl, by decide, by decide, by decide, by decide, by decide⟩, ?_,
    ⟨sampled (packedReq 0x15#8 0x07000000#64 1#64 0#64 0#64 0), _, by decide, rfl, by decide⟩⟩
  rintro n (rfl | rfl | rfl)
  · exact ⟨sampled (packedReq 0x15#8 0x28000000#64 200#64 0#64 0#64 7), _, by decide, rfl, by decide, by decide, by decide⟩
  · exact ⟨sampled (packedReq 0x15#8 0x28000000#64 200#64 0#64 0#64 255), _, by decide, rfl, by decide, by decide, by decide⟩
  · exact ⟨sampled (packedReq 0x15#8 0x28000000#64 200#64 0#64 0#64 1), _, by decide, rfl, by decide, by decide, by decide⟩

/-- V148 and V149. -/
theorem witness_AddIsCommutative : ∃ s t : State, t.cfg = s.cfg ∧
    t.req.packedA .w96 = s.req.packedB .w96 ∧ t.req.packedB .w96 = s.req.packedA .w96 ∧
    s.req.packedA .w96 ≠ s.req.packedB .w96 :=
  ⟨sampled (packedReq 0x12#8 0x18000000#64 0xF#64 0x28000000#64 0xE1#64 0),
    sampled (packedReq 0x12#8 0x28000000#64 0xE1#64 0x18000000#64 0xF#64 0), by decide⟩

/-- V206: the negation of an Extended operand, Compact. -/
theorem witness_SubIsAddOfTheNegation : Config.default.Legal ∧
    ∃ s n t : State, ∃ nb, s.cfg = Config.default ∧ n.cfg = s.cfg ∧ t.cfg = s.cfg ∧
      n.req.packedA .w96 = s.req.packedB .w96 ∧
      exec (instrOf .w96 .neg) n = .next (n.answer (.packed .w96 nb)) ∧
      t.req.packedA .w96 = s.req.packedA .w96 ∧ t.req.packedB .w96 = nb :=
  ⟨by decide, sampled (packedReq 0x13#8 0x08000000#64 1#64 0x49000000#64 0x8000000000000000#64 0),
    sampled (packedReq 0x14#8 0x49000000#64 0x8000000000000000#64 0#64 0#64 0),
    sampled (packedReq 0x12#8 0x08000000#64 1#64 0x48000000#64 0x8000000000000000#64 0),
    ⟨0x48000000#32, 0x8000000000000000#64⟩, rfl, rfl, rfl, rfl, rfl, rfl, rfl⟩

/-- V205: raw −2^63. -/
theorem witness_NegationIsAnInvolution : Config.default.Legal ∧
    ∃ s t : State, ∃ p, s.cfg = Config.default ∧ t.cfg = s.cfg ∧
      exec (instrOf .w96 .neg) s = .next (s.answer (.packed .w96 p)) ∧ t.req.packedA .w96 = p :=
  ⟨by decide, sampled (packedReq 0x14#8 0x48000000#64 0x8000000000000000#64 0#64 0#64 0),
    sampled (packedReq 0x14#8 0x49000000#64 0x8000000000000000#64 0#64 0#64 0),
    ⟨0x49000000#32, 0x8000000000000000#64⟩, rfl, rfl, rfl, rfl⟩

/-- Both clauses: V245 and V246. -/
theorem witness_RescaleIdentityAndNoNarrowing :
    (∃ (s : State) (a : Packed .w96), a = s.req.packedA .w96 ∧ canonical s.cfg a = true ∧
      s.req.newScale s.cfg = (unpack a).2) ∧
    (∃ (s : State) (a : Packed .w96), a = s.req.packedA .w96 ∧ canonical s.cfg a = true ∧
      s.req.newScale s.cfg < (unpack a).2) :=
  ⟨⟨sampled (packedReq 0x15#8 0x3B7FFFFF#64 0xFFFFFFFFFFFFFFFF#64 0#64 0#64 3), _, rfl, by decide, by decide⟩,
    ⟨sampled (packedReq 0x15#8 0x3B800000#64 0#64 0#64 0#64 2), _, rfl, by decide, by decide⟩⟩

/-- Both clauses: V155 (a zero of a smaller scale) and V154. -/
theorem witness_AddingZeroAndSubtractingItself :
    (∃ (s : State) (a b : Packed .w96), s.cfg.Legal ∧ a = s.req.packedA .w96 ∧ b = s.req.packedB .w96 ∧
      canonical s.cfg a = true ∧ canonical s.cfg b = true ∧ (unpack b).1 = 0 ∧ (unpack b).2 ≤ (unpack a).2) ∧
    (∃ (s : State) (a b : Packed .w96), s.cfg.Legal ∧ a = s.req.packedA .w96 ∧ b = s.req.packedB .w96 ∧
      canonical s.cfg a = true ∧ canonical s.cfg b = true ∧ b = a) :=
  ⟨⟨sampled (packedReq 0x12#8 0x28000000#64 5#64 0x08000000#64 0#64 0), _, _, by decide, rfl, rfl, by decide,
      by decide, by decide, by decide⟩,
    ⟨sampled (packedReq 0x13#8 0x38000000#64 7#64 0x38000000#64 7#64 0), _, _, by decide, rfl, rfl, by decide,
      by decide, by decide⟩⟩

/-- V235: a Compact operand rescaled to an Extended result. -/
theorem witness_RescaleKeepsTheNumber : Config.default.Legal ∧
    ∃ s t : State, ∃ p, s.cfg = Config.default ∧ t.cfg = s.cfg ∧
      exec (instrOf .w96 .rsc) s = .next (s.answer (.packed .w96 p)) ∧
      t.req.packedA .w96 = p ∧ t.req.packedB .w96 = s.req.packedA .w96 :=
  ⟨by decide, sampled (packedReq 0x15#8 0x08000000#64 0x016345785D8A0000#64 0#64 0#64 6),
    sampled (packedReq 0x16#8 0x6A00152D#64 0x02C7E14AF6800000#64 0x08000000#64 0x016345785D8A0000#64 0),
    ⟨0x6A00152D#32, 0x02C7E14AF6800000#64⟩, rfl, rfl, rfl, rfl, rfl⟩

/-- Four clauses: less (V266), equal (V264), greater (V267), and a reserved operand. -/
theorem witness_OrderingComparesTheNumbers :
    (∃ (s : State) (a b : Packed .w96), a = s.req.packedA .w96 ∧ b = s.req.packedB .w96 ∧
      canonical s.cfg a = true ∧ canonical s.cfg b = true ∧ numberOf a < numberOf b) ∧
    (∃ (s : State) (a b : Packed .w96), a = s.req.packedA .w96 ∧ b = s.req.packedB .w96 ∧
      canonical s.cfg a = true ∧ canonical s.cfg b = true ∧ numberOf a = numberOf b) ∧
    (∃ (s : State) (a b : Packed .w96), a = s.req.packedA .w96 ∧ b = s.req.packedB .w96 ∧
      canonical s.cfg a = true ∧ canonical s.cfg b = true ∧ numberOf b < numberOf a) ∧
    (∃ (s : State) (a b : Packed .w96), a = s.req.packedA .w96 ∧ b = s.req.packedB .w96 ∧
      canonical s.cfg a = true ∧ canonical s.cfg b = false) := by
  have h1 : unpack (⟨0x28000000#32, 199#64⟩ : Packed .w96) = (199, 2) := by decide
  have h2 : unpack (⟨0x08000000#32, 2#64⟩ : Packed .w96) = (2, 0) := by decide
  have h3 : unpack (⟨0x28000000#32, 200#64⟩ : Packed .w96) = (200, 2) := by decide
  have h4 : unpack (⟨0x28000000#32, 201#64⟩ : Packed .w96) = (201, 2) := by decide
  refine ⟨⟨sampled (packedReq 0x16#8 0x28000000#64 199#64 0x08000000#64 2#64 0), ⟨0x28000000#32, 199#64⟩,
      ⟨0x08000000#32, 2#64⟩, by decide, by decide, by decide, by decide, ?_⟩,
    ⟨sampled (packedReq 0x16#8 0x08000000#64 2#64 0x28000000#64 200#64 0), ⟨0x08000000#32, 2#64⟩,
      ⟨0x28000000#32, 200#64⟩, by decide, by decide, by decide, by decide, ?_⟩,
    ⟨sampled (packedReq 0x16#8 0x28000000#64 201#64 0x08000000#64 2#64 0), ⟨0x28000000#32, 201#64⟩,
      ⟨0x08000000#32, 2#64⟩, by decide, by decide, by decide, by decide, ?_⟩,
    ⟨sampled (packedReq 0x16#8 0x08000000#64 2#64 0x07000000#64 1#64 0), _, _, rfl, rfl, by decide, by decide⟩⟩ <;>
    norm_num [numberOf, number, h1, h2, h3, h4]

/-- EQ.96 of two operands that differ only above the header word answers 1. -/
theorem witness_HashReadsRawBits : ∃ e s t : State,
    s.req.packedA .w96 = e.req.packedA .w96 ∧ t.req.packedA .w96 = e.req.packedB .w96 ∧
    exec (instrOf .w96 .eq) e = .next (e.answer (.scalar 1#32)) :=
  ⟨sampled (packedReq 0x17#8 0xFF00000001#64 5#64 1#64 5#64 0), sampled (packedReq 0x18#8 1#64 5#64 0#64 0#64 0),
    sampled (packedReq 0x18#8 1#64 5#64 0#64 0#64 0), by decide, by decide, rfl⟩

/-- V264: CMP 0 and EQ 0, at different scales; V265: EQ 1, at equal scales. -/
theorem witness_EqualityAndOrderingDiverge :
    (∃ (s : State) (a b : Packed .w96), s.cfg.Legal ∧ a = s.req.packedA .w96 ∧ b = s.req.packedB .w96 ∧
      canonical s.cfg a = true ∧ canonical s.cfg b = true ∧ (unpack a).2 ≠ (unpack b).2 ∧
      exec (instrOf .w96 .cmp) s = .next (s.answer (.scalar 0#32)) ∧
      exec (instrOf .w96 .eq) s = .next (s.answer (.scalar 0#32))) ∧
    (∃ (s : State) (a b : Packed .w96), s.cfg.Legal ∧ a = s.req.packedA .w96 ∧ b = s.req.packedB .w96 ∧
      canonical s.cfg a = true ∧ canonical s.cfg b = true ∧ (unpack a).2 = (unpack b).2 ∧
      exec (instrOf .w96 .eq) s = .next (s.answer (.scalar 1#32))) :=
  ⟨⟨sampled (packedReq 0x16#8 0x08000000#64 2#64 0x28000000#64 200#64 0), _, _, by decide, rfl, rfl, by decide,
      by decide, by decide, rfl, rfl⟩,
    ⟨sampled (packedReq 0x17#8 0x08000000#64 2#64 0x08000000#64 2#64 0), _, _, by decide, rfl, rfl, by decide,
      by decide, by decide, rfl⟩⟩

end Sys2Proof.Tests
end

