-- ==== Sys2Proof/Proofs/Scope.lean ====
section
/-! SUPPORT. The request ports of words that fit them (spec R7, R13, R70), the state right after reset
(R6, R22, R170), and the statements on them. -/

namespace Sys2Proof.Machine

/-! ## The operands on ports whose words fit (log 2) -/

@[simp] theorem Request.value_neg_iff (c : Config) (q : Request) : (q.value c).neg = true ↔ q.vNeg = 1#1 :=
  beq_iff_eq

theorem Request.Fits.value_mag {c : Config} {q : Request} (h : q.Fits c) : (q.value c).mag = q.vMag :=
  Nat.mod_eq_of_lt h.1

theorem Request.Fits.value_scale {c : Config} {q : Request} (h : q.Fits c) (hc : 1 ≤ c.scW) :
    (q.value c).scale = if q.vScale < 2 ^ (c.scW - 1) then (q.vScale : Int) else q.vScale - 2 ^ c.scW :=
  sintPort_eq hc h.2.1

theorem Request.Fits.newScale_eq {c : Config} {q : Request} (h : q.Fits c) (hc : 1 ≤ c.scW) :
    q.newScale c = if q.ns < 2 ^ (c.scW - 1) then (q.ns : Int) else q.ns - 2 ^ c.scW :=
  sintPort_eq hc h.2.2

/-- Either sign of a zero magnitude is the number zero (R70). -/
theorem unscaled_eq_zero_iff (v : Value) : unscaled v = 0 ↔ v.mag = 0 := by
  rw [unscaled]
  split <;> omega

/-! ## The state right after reset -/

@[simp] theorem State.reset_responses : State.reset.responses = [] := rfl
@[simp] theorem State.reset_rst : State.reset.rst = false := rfl
@[simp] theorem State.reset_cfg : State.reset.cfg = Config.default := rfl

/-- The PDU is ready exactly outside reset (R170, log 5). -/
theorem State.reqReady_iff (s : State) : s.reqReady = true ↔ s.rst = false := by
  simp [State.reqReady]

/-- No response stands on the port exactly under reset or while none is pending (R23, R170). -/
theorem State.rspValid_eq_false_iff (s : State) :
    s.rspValid = false ↔ s.rst = true ∨ s.responses = [] := by
  cases hr : s.rst <;> simp [State.rspValid, hr]

end Sys2Proof.Machine

namespace Sys2Proof.Spec

open Sys2Proof.Machine

/-- Settles O30: a word that fits its port is its own residue, so each port is read as its type says. -/
theorem operandPortsReadAsTheirTypes : Obligations.OperandPortsReadAsTheirTypes := by
  intro c q hc hq
  have hsc : 1 ≤ c.scW := by omega
  refine ⟨hq.value_mag, q.value_neg_iff c, hq.value_scale hsc, hq.newScale_eq hsc, fun hzero => ?_⟩
  rw [unscaled_eq_zero_iff, hq.value_mag, hzero]

/-- Settles O8: nothing pending and `rst` = 0 give the two channel outputs; the build is the default one. -/
theorem resetStateHasNothingPending : Obligations.ResetStateHasNothingPending := by
  refine ⟨State.reset_responses, State.reset_rst, (State.reqReady_iff _).2 State.reset_rst,
    (State.rspValid_eq_false_iff _).2 (.inr State.reset_responses), ?_⟩
  rw [State.reset_cfg]
  norm_num [Config.default]

end Sys2Proof.Spec
end

/-! SUPPORT. The machine as a whole (spec 10_state.md): what delivery, an accepted request and a run of
steps do to the channels, which request fields an operation reads (R15), the response port (R14, R16,
R150), and the statements on them. -/

namespace Sys2Proof.Machine

open Sys2Proof.Spec

/-! ## Delivery and acceptance (R23, R36) -/

theorem State.deliver_of_idle {s : State} (h : s.rspReady = false ∨ s.responses = []) : s.deliver = s := by
  obtain ⟨hd, -⟩ | ⟨x, rest, hr, hx, -⟩ := s.deliver_cases
  · exact hd
  · simp [hr, hx] at h

theorem State.deliver_of_pending {s : State} {x : Response} {rest : List Response}
    (hr : s.rspReady = true) (hx : s.responses = x :: rest) :
    s.deliver = { s with responses := rest, delivered := s.delivered ++ [x] } := by
  simp [State.deliver, hr, hx]

theorem State.delivered_prefix_deliver (s : State) : s.delivered <+: s.deliver.delivered := by
  obtain ⟨hd, -⟩ | ⟨x, rest, -, -, hd⟩ := s.deliver_cases <;> rw [hd]
  exact List.prefix_append _ _

section Taken

variable (s : State) (q : Request) (rest : List Request)

@[simp] theorem taken_cfg : (taken s q rest).cfg = s.cfg := s.deliver_cfg
@[simp] theorem taken_rst : (taken s q rest).rst = s.rst := s.deliver_rst
@[simp] theorem taken_requests : (taken s q rest).requests = rest := rfl
@[simp] theorem taken_req : (taken s q rest).req = q := rfl
@[simp] theorem taken_rspReady : (taken s q rest).rspReady = s.rspReady := s.deliver_rspReady
@[simp] theorem taken_delivered : (taken s q rest).delivered = s.deliver.delivered := rfl
@[simp] theorem taken_responses : (taken s q rest).responses = s.deliver.responses := rfl

end Taken

/-! ## The response function -/

/-- f gives the response to every request the PDU accepts, by the build and the request alone. -/
def AnswersBy (f : Config → Request → Response) : Prop :=
  ∀ (s : State) (q : Request) (rest : List Request), s.rst = false → s.requests = q :: rest →
    step s = .next ((taken s q rest).answer (f s.cfg q))

/-- One response fits all states of a build that hold the same request: a reserved command is answered
alike everywhere, and an operation depends on the build and the sample only. -/
theorem exists_response (c : Config) (q : Request) : ∃ x, ∀ (s : State) (rest : List Request),
    s.cfg = c → s.rst = false → s.requests = q :: rest → step s = .next ((taken s q rest).answer x) := by
  cases hd : decode q.cmd with
  | error r =>
    refine ⟨.err .illegalCommand, fun s rest _ hr hq => ?_⟩
    rw [step_request s hr hq, hd]
    rfl
  | ok i =>
    obtain ⟨x, hx⟩ := exec_answers { State.reset with cfg := c, req := q } i
    refine ⟨x, fun s rest hc hr hq => ?_⟩
    obtain ⟨y, hy, hs⟩ := exec_same_sample i (s := { State.reset with cfg := c, req := q })
      (t := taken s q rest) (by simp [hc]) rfl
    obtain rfl : x = y := (next_answer_inj _).mp (hx.symm.trans hy)
    rw [step_request s hr hq, hd]
    exact hs

theorem exists_answersBy : ∃ f, AnswersBy f := by
  choose f hf using exists_response
  exact ⟨f, fun s q rest => hf s.cfg q s rest rfl⟩

/-! ## Runs -/

theorem core_run_succ {s t : State} (h : step s = .next t) (k : Nat) :
    Sys2Proof.core.run (k + 1) s = Sys2Proof.core.run k t := by
  have hc : Sys2Proof.core.step s = .next t := h
  simp only [Host.Core.run, hc]

/-- By induction on the offered requests: a step answers the first and leaves the rest offered. -/
theorem AnswersBy.run {f : Config → Request → Response} (hf : AnswersBy f) :
    ∀ (qs : List Request) (s : State), s.rst = false → s.requests = qs →
      ∃ t : State, Sys2Proof.core.run qs.length s = .next t ∧ t.requests = [] ∧
        t.delivered ++ t.responses = s.delivered ++ s.responses ++ qs.map (f s.cfg) := by
  intro qs
  induction qs with
  | nil => exact fun s _ hq => ⟨s, rfl, hq, by simp⟩
  | cons q rest ih =>
    intro s hr hq
    obtain ⟨t, hrun, hreq, hout⟩ := ih ((taken s q rest).answer (f s.cfg q)) (by simpa using hr) rfl
    refine ⟨t, (core_run_succ (hf s q rest hr hq) _).trans hrun, hreq, ?_⟩
    calc t.delivered ++ t.responses
        = s.deliver.delivered ++ s.deliver.responses ++ (f s.cfg q :: rest.map (f s.cfg)) := by
          simpa using hout
      _ = s.delivered ++ s.responses ++ (q :: rest).map (f s.cfg) := by
          rw [s.deliver_keeps_order, List.map_cons]

/-! ## The request fields an operation reads (R13, R15) -/

theorem Request.value_congr {c : Config} {q r : Request} (hn : q.vNeg = r.vNeg) (hm : q.vMag = r.vMag)
    (hs : q.vScale = r.vScale) : q.value c = r.value c := by
  simp only [Request.value, hn, hm, hs]

theorem Request.newScale_congr {c : Config} {q r : Request} (h : q.ns = r.ns) :
    q.newScale c = r.newScale c := by
  simp only [Request.newScale, h]

/-- Two operations that end in one result answer with one response. -/
theorem complete_same (s t : State) (e : Except ErrorKind Response) :
    ∃ x, complete s e = .next (s.answer x) ∧ complete t e = .next (t.answer x) := by
  cases e <;> exact ⟨_, rfl, rfl⟩

/-- The responses of one operation agree where the builds and the operands it reads agree. -/
theorem exec_instrOf_same_reads (w : Width) (o : Op) {s t : State} (hc : s.cfg = t.cfg)
    (h : AgreeOnReads (instrOf w o) s.req t.req) :
    ∃ x, exec (instrOf w o) s = .next (s.answer x) ∧ exec (instrOf w o) t = .next (t.answer x) := by
  rw [AgreeOnReads, width_instrOf, op_instrOf] at h
  obtain ⟨hA, hB, hV, hN⟩ := h
  cases o with
  | enc =>
    obtain ⟨hn, hm, hs⟩ := hV rfl
    have hv : s.req.value t.cfg = t.req.value t.cfg := Request.value_congr hn hm hs
    by_cases hw : w = .w64
    · subst hw
      rw [exec_enc_w64, exec_enc_w64, hc, hv]
      exact complete_same s t _
    · rw [exec_enc _ hw, exec_enc _ hw, hc, hv]
      exact complete_same s t _
  | dec =>
    rw [exec_dec, exec_dec, hc, hA (by decide)]
    exact complete_same s t _
  | add =>
    rw [exec_add, exec_add, hc, hA (by decide), hB (by decide)]
    exact complete_same s t _
  | sub =>
    rw [exec_sub, exec_sub, hc, hA (by decide), hB (by decide)]
    exact complete_same s t _
  | neg =>
    rw [exec_neg, exec_neg, hc, hA (by decide)]
    exact complete_same s t _
  | rsc =>
    rw [exec_rsc, exec_rsc, hc, hA (by decide), Request.newScale_congr (hN rfl)]
    exact complete_same s t _
  | cmp =>
    rw [exec_cmp, exec_cmp, hc, hA (by decide), hB (by decide)]
    exact complete_same s t _
  | eq =>
    rw [exec_eq, exec_eq, hA (by decide), hB (by decide)]
    exact ⟨_, rfl, rfl⟩
  | hash =>
    rw [exec_hash, exec_hash, hA (by decide)]
    exact ⟨_, rfl, rfl⟩

/-! ## The state right after reset -/

theorem Config.default_legal : Config.default.Legal := by
  norm_num [Config.Legal, Config.default]

/-- Zero words fit their ports, whatever the widths of the build. -/
theorem Request.zero_fits (c : Config) : Request.zero.Fits c :=
  ⟨Nat.two_pow_pos _, Nat.two_pow_pos _, Nat.two_pow_pos _⟩

/-! ## The response port (R14, R16, R153) -/

/-- A packed result fills `r_h` with its header word h, widened to the port, and `r_b`. -/
theorem Response.ports_packed (c : Config) {w : Width} {p : Packed w} {h : Word64}
    (hh : p.h.setWidth 64 = h) : (Response.packed w p).ports c =
      { st := 0#4, rH := h, rB := p.b, rvNeg := 0#1, rvMag := 0, rvScale := 0, rS := 0#32 } := by
  rw [← hh]
  rfl

theorem Response.ports_scalar (c : Config) (x : Scalar) : (Response.scalar x).ports c =
    { st := 0#4, rH := 0#64, rB := 0#64, rvNeg := 0#1, rvMag := 0, rvScale := 0, rS := x } := rfl

theorem Response.ports_err (c : Config) (k : ErrorKind) : (Response.err k).ports c =
    { st := k.code, rH := 0#64, rB := 0#64, rvNeg := 0#1, rvMag := 0, rvScale := 0, rS := 0#32 } := rfl

/-- W = 64 has no header word, so nothing stands on `r_h`. -/
theorem header_w64_on_port (h : BitVec (Width.hb .w64)) : h.setWidth 64 = 0#64 := by
  have h0 : h = 0#0 := BitVec.of_length_zero
  rw [h0]
  rfl

/-- The header word of W = 96 stands in the low half of `r_h`, zero above it. -/
theorem header_w96_on_port (h : BitVec 32) : h.setWidth 64 = 0#32 ++ h := by
  have happ : (0#32 ++ h).toNat = h.toNat := by rw [toNat_append_add, BitVec.toNat_zero]; omega
  have hlt : h.toNat < 2 ^ 64 := h.isLt.trans (by norm_num)
  exact BitVec.eq_of_toNat_eq <| calc
    (h.setWidth 64).toNat = h.toNat := by rw [BitVec.toNat_setWidth, Nat.mod_eq_of_lt hlt]
    _ = (0#32 ++ h).toNat := happ.symm

end Sys2Proof.Machine

namespace Sys2Proof.Spec

open Sys2Proof.Machine

/-- Settles O9: the response function is chosen from the response of each build and request. -/
theorem responseIsAFunctionOfTheRequestAlone : Obligations.ResponseIsAFunctionOfTheRequestAlone :=
  exists_answersBy

/-- Settles O10, by induction on the offered requests. -/
theorem everyRequestIsAnsweredOnceInOrder : Obligations.EveryRequestIsAnsweredOnceInOrder := by
  obtain ⟨f, hf⟩ := exists_answersBy
  exact ⟨f, fun s hr => hf.run s.requests s hr rfl⟩

/-- Settles O11, by the three things a step can do. -/
theorem stepsNeverStopAndKeepWhatWasDelivered : Obligations.StepsNeverStopAndKeepWhatWasDelivered := by
  intro s
  obtain ⟨-, hs⟩ | ⟨-, -, hs⟩ | ⟨q, rest, x, -, hq, hs⟩ := step_cases s
  · exact ⟨_, hs, rfl, rfl, rfl, List.prefix_rfl, List.suffix_rfl⟩
  · exact ⟨_, hs, s.deliver_cfg, s.deliver_rst, s.deliver_rspReady, s.delivered_prefix_deliver,
      s.deliver_requests ▸ List.suffix_rfl⟩
  · exact ⟨_, hs, s.deliver_cfg, s.deliver_rst, s.deliver_rspReady, s.delivered_prefix_deliver,
      hq ▸ List.suffix_cons q rest⟩

/-- Settles O14: each operation by its meaning at any width, which names the operands it reads. -/
theorem unreadRequestFieldsHaveNoEffect : Obligations.UnreadRequestFieldsHaveNoEffect := by
  intro i s t hc h
  rw [← instrOf_width_op i] at h ⊢
  exact exec_instrOf_same_reads i.width i.op hc h

/-- Settles O1: the step takes the request at the head and answers its command. -/
theorem stepRunsTheDecodedCommand : Obligations.StepRunsTheDecodedCommand := by
  intro s q rest i hr hq hd
  rw [step_request s hr hq, hd]
  rfl

/-- Settles O5: the next state is the answered one, and an answer touches the pending responses alone. -/
theorem everyOperationAnswersOnceAndChangesNothingElse :
    Obligations.EveryOperationAnswersOnceAndChangesNothingElse := by
  intro i s
  obtain ⟨x, hx⟩ := exec_answers s i
  exact ⟨s.answer x, hx, ⟨x, s.answer_responses x⟩, s.answer_cfg x, s.answer_rst x, s.answer_requests x,
    s.answer_req x, s.answer_rspReady x, s.answer_delivered x⟩

/-- Settles O6: with no request offered a step is a delivery. -/
theorem responseChannelDeliversOldestFirst : Obligations.ResponseChannelDeliversOldestFirst := by
  intro s hr hq
  rw [step_idle s hr hq]
  exact ⟨fun h => by rw [State.deliver_of_idle h],
    fun x rest hready hx => by rw [State.deliver_of_pending hready hx]⟩

/-- Settles O13: the default build is legal, the zero sample (log 6) fits, and both channels are empty. -/
theorem responsesSoundAtReset : Obligations.ResponsesSoundAtReset where
  legal := Config.default_legal
  offered_fit := List.forall_mem_nil _
  sample_fits := Request.zero_fits _
  pending_sound := List.forall_mem_nil _
  delivered_sound := List.forall_mem_nil _

/-- Settles O16: the port record of an error, and the table of codes. -/
theorem errorResponsesCarryOnlyTheCode : Obligations.ErrorResponsesCarryOnlyTheCode :=
  ⟨Response.ports_err, rfl, rfl, rfl, rfl, rfl, rfl, rfl⟩

/-- Settles O17: the port records of a packed and a scalar result, with the header word of each width. -/
theorem resultsStandOnTheirOwnPorts : Obligations.ResultsStandOnTheirOwnPorts := by
  exact fun c => ⟨fun p => Response.ports_packed c (header_w64_on_port p.h),
    fun p => Response.ports_packed c (header_w96_on_port p.h),
    fun p => Response.ports_packed c (BitVec.setWidth_eq p.h), Response.ports_scalar c⟩

end Sys2Proof.Spec

/-! SUPPORT. Where the bytes of an Extended magnitude stand (spec R32, R63), the wire fields of a packed
value (R33, R74), and the statements on them. -/

namespace Sys2Proof.Machine

/-! ## The wire fields (R33, R74) -/

theorem toFields_eq {w : Width} (p : Packed w) : toFields p = (p.h, p.b) := rfl

@[simp] theorem fromFields_toFields {w : Width} (p : Packed w) : fromFields (toFields p) = p := rfl

@[simp] theorem toFields_fromFields {w : Width} (f : BitVec w.hb × Word64) :
    toFields (fromFields f : Packed w) = f := rfl

/-! ## The bytes of a number -/

/-- A byte of a two's-complement form, counted from its low end, in the number all its bytes spell. -/
theorem getElem?_tcBytes (n : Int) {L i : Nat} (hi : i < L) :
    (tcBytes n L)[i]? = some (BitVec.ofNat 8 (bytesToNat (tcBytes n L) / 2 ^ (8 * (L - 1 - i)))) := by
  rw [bytesToNat_tcBytes]
  simp [tcBytes, hi]

/-- Above the bytes of a two's-complement form its number has none. -/
theorem tcBytes_div_eq_zero (n : Int) {L m : Nat} (h : L ≤ m) :
    bytesToNat (tcBytes n L) / 2 ^ (8 * m) = 0 := by
  have hB := bytesToNat_lt_two_pow (tcBytes n L)
  rw [tcBytes_length] at hB
  exact Nat.div_eq_of_lt (hB.trans_le (Nat.pow_le_pow_right (by norm_num) (by omega)))

/-- A byte inside a word is the same byte of any number the word holds the low bits of. -/
theorem extractLsb'_ofNat_byte {m a : Nat} (N : Nat) (h : a + 8 ≤ m) :
    (BitVec.ofNat m N).extractLsb' a 8 = BitVec.ofNat 8 (N / 2 ^ a) := by
  refine BitVec.eq_of_getLsbD_eq fun i hi => ?_
  have him : a + i < m := by omega
  rw [BitVec.getLsbD_extractLsb', BitVec.getLsbD_ofNat, BitVec.getLsbD_ofNat, Nat.testBit_div_two_pow]
  simp [him, Nat.add_comm]

/-! ## The lanes and the body of an Extended value (R32, R63) -/

/-- The lanes have room for all of a magnitude but the last 8 bytes, up to the ceiling of the width (R5). -/
theorem lmaxOf_eq_nlOf_add (w : Width) : lmaxOf w = nlOf w + 8 := by cases w <;> rfl

/-- The lanes are the low byte lanes of the header word (R60). -/
theorem lane_eq_extractLsb' {w : Width} (p : Packed w) {k : Nat} (hk : k < nlOf w) :
    p.lane k = p.h.extractLsb' (8 * k) 8 := by
  ext i hi
  have hik : 8 * k + i < 8 * nlOf w := by omega
  simp [Packed.lane, Packed.lanes, hik]

section Extended

variable {w : Width} {u : Int} {s : Nat}

/-- The body holds the low 64 bits of B. -/
theorem extended_b (h8 : 8 ≤ tcLen u) :
    (extended w s u).b = BitVec.ofNat 64 (bytesToNat (tcBytes u (tcLen u))) := by
  obtain ⟨-, hdrop⟩ := bytesToNat_tcBytes_split u (tcLen u) 8 h8
  apply BitVec.eq_of_toNat_eq
  simp [extended, hdrop, bytesToNat_tcBytes]

/-- The lanes hold what B has above them. -/
theorem extended_lanes (hw : w ≠ .w64) (h8 : 8 ≤ tcLen u) : (extended w s u).lanes =
    BitVec.ofNat (8 * nlOf w) (bytesToNat (tcBytes u (tcLen u)) / 2 ^ 64) := by
  obtain ⟨htake, -⟩ := bytesToNat_tcBytes_split u (tcLen u) 8 h8
  rw [extended, lanes_headerWord hw, htake, bytesToNat_tcBytes]

theorem extended_body_byte (h8 : 8 ≤ tcLen u) {j : Nat} (hj : j < 8) :
    (extended w s u).b.extractLsb' (8 * j) 8 =
      BitVec.ofNat 8 (bytesToNat (tcBytes u (tcLen u)) / 2 ^ (8 * j)) := by
  rw [extended_b h8, extractLsb'_ofNat_byte _ (by omega)]

/-- The header word goes on where the body ends: its lane k is byte 8 + k of B from the low end. -/
theorem extended_header_byte (hw : w ≠ .w64) (h8 : 8 ≤ tcLen u) {k : Nat} (hk : k < nlOf w) :
    (extended w s u).h.extractLsb' (8 * k) 8 =
      BitVec.ofNat 8 (bytesToNat (tcBytes u (tcLen u)) / 2 ^ (8 * (8 + k))) := by
  rw [← lane_eq_extractLsb' _ hk, Packed.lane, extended_lanes hw h8, extractLsb'_ofNat_byte _ (by omega),
    Nat.div_div_eq_div_mul, ← pow_add, show 64 + 8 * k = 8 * (8 + k) by ring]

/-- The lanes and the body side by side spell B. -/
theorem extended_lanes_body (hw : w ≠ .w64) (h8 : 8 ≤ tcLen u) (hl : tcLen u ≤ lmaxOf w) :
    (extended w s u).lanes.toNat * 2 ^ 64 + (extended w s u).b.toNat =
      bytesToNat (tcBytes u (tcLen u)) := by
  have hroom : bytesToNat (tcBytes u (tcLen u)) / 2 ^ 64 < 2 ^ (8 * nlOf w) := by
    rw [← Nat.div_eq_zero_iff_lt (by positivity), Nat.div_div_eq_div_mul, ← pow_add,
      show 64 + 8 * nlOf w = 8 * lmaxOf w by rw [lmaxOf_eq_nlOf_add]; ring]
    exact tcBytes_div_eq_zero u hl
  rw [extended_lanes hw h8, extended_b h8, BitVec.toNat_ofNat, BitVec.toNat_ofNat, Nat.mod_eq_of_lt hroom]
  exact Nat.div_add_mod' _ _

end Extended

end Sys2Proof.Machine

namespace Sys2Proof.Spec

open Sys2Proof.Machine

/-- Settles O24: byte for byte, the two words hold B from its low end up, the body first. -/
theorem extendedBytesStandRightAligned : Obligations.ExtendedBytesStandRightAligned := by
  intro w u s hw h8 hl
  have hroom : tcLen u ≤ nlOf w + 8 := lmaxOf_eq_nlOf_add w ▸ hl
  refine ⟨fun j hj => ?body, fun k hk => ?header, fun k hk hkn => ?unused, ?number⟩
  case body =>
    rw [extended_body_byte h8 (by omega), getElem?_tcBytes u (by omega),
      show tcLen u - 1 - (tcLen u - 8 + j) = 7 - j by omega]
  case header =>
    rw [extended_header_byte hw h8 (by omega), getElem?_tcBytes u (by omega),
      show tcLen u - 1 - (tcLen u - 9 - k) = 8 + k by omega]
  case unused =>
    rw [extended_header_byte hw h8 hkn, tcBytes_div_eq_zero u (by omega)]
  case number => exact extended_lanes_body hw h8 hl

/-- Settles O22: each conversion only regroups the two words. -/
theorem wireFieldsAreTheTwoWords : Obligations.WireFieldsAreTheTwoWords :=
  fun _ p => ⟨toFields_eq p, fromFields_toFields p, toFields_fromFields⟩

end Sys2Proof.Spec

/-! SUPPORT. The command word as its three fields (spec R50 to R53) and the header word as its three (R60),
and the statements on them. -/

namespace Sys2Proof

open Sys2Proof.Machine Sys2Proof.Spec

/-! ## Three bit fields side by side -/

section Fields

variable {m n p : Nat} (x : BitVec m) (y : BitVec n) (z : BitVec p)

theorem extractLsb'_high_field : (x ++ y ++ z).extractLsb' (p + n) m = x := by
  rw [BitVec.extractLsb'_append_eq_of_le (Nat.le_add_right p n), Nat.add_sub_cancel_left,
    BitVec.extractLsb'_append_eq_left]

theorem extractLsb'_middle_field : (x ++ y ++ z).extractLsb' p n = y := by
  rw [BitVec.extractLsb'_append_eq_of_le le_rfl, Nat.sub_self, BitVec.extractLsb'_append_eq_right]

end Fields

/-! ## The fields of a command (R50 to R52) -/

theorem cmdRsv_append (r w : BitVec 2) (o : BitVec 4) : cmdRsv (r ++ w ++ o) = r :=
  extractLsb'_high_field r w o

theorem cmdWsel_append (r w : BitVec 2) (o : BitVec 4) : cmdWsel (r ++ w ++ o) = w :=
  extractLsb'_middle_field r w o

theorem cmdOp_append (r w : BitVec 2) (o : BitVec 4) : cmdOp (r ++ w ++ o) = o :=
  BitVec.extractLsb'_append_eq_right

/-- A command is its fields, `RSV` highest. -/
theorem cmd_eq_append (c : Cmd) : c = cmdRsv c ++ cmdWsel c ++ cmdOp c := by
  have hop : cmdRsv c ++ cmdWsel c = c.extractLsb' 4 4 :=
    BitVec.extractLsb'_append_extractLsb'_eq_extractLsb' rfl
  have hcmd : c.extractLsb' 4 4 ++ cmdOp c = c.extractLsb' 0 8 :=
    BitVec.extractLsb'_append_extractLsb'_eq_extractLsb' rfl
  rw [hop, hcmd, BitVec.extractLsb'_eq_self]

@[simp] theorem widthOfWsel_wselOf (w : Width) : widthOfWsel (wselOf w) = some w := by cases w <;> rfl

@[simp] theorem opOfNibble_nibbleOf (o : Op) : opOfNibble (nibbleOf o) = some o := by cases o <;> rfl

/-- Every `WSEL` but the reserved one selects a width. -/
theorem exists_wselOf {x : BitVec 2} (h : x ≠ 3#2) : ∃ w, x = wselOf w := by
  obtain rfl | rfl | rfl : x = 0#2 ∨ x = 1#2 ∨ x = 2#2 := by
    revert x
    decide
  exacts [⟨.w64, rfl⟩, ⟨.w96, rfl⟩, ⟨.w128, rfl⟩]

/-- Every `OP` below the reserved ones selects an operation. -/
theorem exists_nibbleOf {x : BitVec 4} (h : x.toNat < 9) : ∃ o, x = nibbleOf o := by
  have key : ∀ k < 9, ∃ o, BitVec.ofNat 4 k = nibbleOf o := by
    intro k hk
    interval_cases k
    exacts [⟨.enc, rfl⟩, ⟨.dec, rfl⟩, ⟨.add, rfl⟩, ⟨.sub, rfl⟩, ⟨.neg, rfl⟩, ⟨.rsc, rfl⟩, ⟨.cmp, rfl⟩,
      ⟨.eq, rfl⟩, ⟨.hash, rfl⟩]
  simpa using key x.toNat h

theorem opOfNibble_eq_none {x : BitVec 4} (h : 9 ≤ x.toNat) : opOfNibble x = none := by
  obtain ⟨k, hk⟩ : ∃ k, x.toNat = k + 9 := ⟨x.toNat - 9, by omega⟩
  rw [opOfNibble, hk]
  rfl

/-! ## The decoder (R53) -/

theorem decode_encode (i : Instr) : decode (encode i) = .ok i := by
  rw [decode, encode, cmdRsv_append, cmdWsel_append, cmdOp_append, widthOfWsel_wselOf, opOfNibble_nibbleOf]
  simp [instrOf_width_op]

/-- A reserved command is rejected, by the first of its reserved fields. -/
theorem decode_of_reserved {c : Cmd} (h : Reserved c) : ∃ r, decode c = .error r := by
  rw [decode]
  split
  · exact ⟨_, rfl⟩
  · next hr =>
    obtain h | h | h := h
    · exact absurd h hr
    · rw [h]
      exact ⟨_, rfl⟩
    · rw [opOfNibble_eq_none h]
      split
      · exact ⟨_, rfl⟩
      · exact ⟨_, rfl⟩
      · next h' => cases h'

/-- A command that is not reserved is the encoding of the operation its `WSEL` and `OP` name. -/
theorem exists_encode_of_not_reserved {c : Cmd} (h : ¬ Reserved c) : ∃ i, c = encode i := by
  simp only [Reserved, not_or, not_not, not_le] at h
  obtain ⟨hr, hw, ho⟩ := h
  obtain ⟨w, hw⟩ := exists_wselOf hw
  obtain ⟨o, ho⟩ := exists_nibbleOf ho
  exact ⟨instrOf w o, by rw [cmd_eq_append c, hr, hw, ho, encode, width_instrOf, op_instrOf]⟩

theorem not_reserved_of_decode {c : Cmd} {i : Instr} (h : decode c = .ok i) : ¬ Reserved c := by
  intro hr
  obtain ⟨r, hr⟩ := decode_of_reserved hr
  cases h.symm.trans hr

/-- A command that decodes is the encoding of what it decodes to. -/
theorem eq_encode_of_decode {c : Cmd} {i : Instr} (h : decode c = .ok i) : c = encode i := by
  obtain ⟨j, rfl⟩ := exists_encode_of_not_reserved (not_reserved_of_decode h)
  cases (decode_encode j).symm.trans h
  rfl

end Sys2Proof

namespace Sys2Proof.Spec

open Sys2Proof.Machine

/-- Settles O2: a reserved command is rejected by the decoder; any other is an encoding, and its operation
answers once. -/
theorem reservedCommandsAnswerIllegalCommand : Obligations.ReservedCommandsAnswerIllegalCommand := by
  intro s q rest hr hq
  rw [step_request s hr hq]
  refine ⟨fun hres => ?reserved, fun hres => ?defined⟩
  case reserved =>
    obtain ⟨r, hd⟩ := decode_of_reserved hres
    rw [hd]
    rfl
  case defined =>
    obtain ⟨i, hi⟩ := exists_encode_of_not_reserved hres
    obtain ⟨x, hx⟩ := exec_answers (taken s q rest) i
    rw [hi, decode_encode]
    exact ⟨i, x, rfl, hx, hx⟩

/-- Settles O3: each of the nine words is the encoding of its operation. -/
theorem commandWordsDecodeToTheirOperations : Obligations.CommandWordsDecodeToTheirOperations :=
  ⟨decode_encode .enc64, decode_encode .dec96, decode_encode .add128, decode_encode .sub64,
    decode_encode .neg96, decode_encode .rsc128, decode_encode .cmp64, decode_encode .eq96,
    decode_encode .hash128, rfl, rfl, rfl⟩

/-- Settles O4: the words that are not reserved are the encodings, and each decodes to its operation. -/
theorem encodeAndDecodeAgree : Obligations.EncodeAndDecodeAgree := by
  refine ⟨decode_encode, fun c i => eq_encode_of_decode, fun c => ⟨fun ⟨i, h⟩ => not_reserved_of_decode h, ?_⟩⟩
  intro h
  obtain ⟨i, rfl⟩ := exists_encode_of_not_reserved h
  exact ⟨i, decode_encode i⟩

/-- Settles O21: the accessors read the three fields of the header word, and a lane is a byte of the
lanes by its definition. -/
theorem headerFieldsStandWhereTheFormatSays : Obligations.HeaderFieldsStandWhereTheFormatSays :=
  ⟨fun s t l _ => ⟨extractLsb'_high_field s t l, extractLsb'_middle_field s t l,
      BitVec.extractLsb'_append_eq_right, fun k _ =>
        congrArg (BitVec.extractLsb' (8 * k) 8) BitVec.extractLsb'_append_eq_right⟩,
    fun s t l _ => ⟨extractLsb'_high_field s t l, extractLsb'_middle_field s t l,
      BitVec.extractLsb'_append_eq_right, fun k _ =>
        congrArg (BitVec.extractLsb' (8 * k) 8) BitVec.extractLsb'_append_eq_right⟩⟩

end Sys2Proof.Spec

/-! SUPPORT. Canonical form and reading back (spec R65 to R68, R92), packing and unpacking as inverses, and
the statements on them. -/

namespace Sys2Proof.Machine

open Sys2Proof.Spec

/-! ## Canonical form by the fields (R66) -/

section Canonical

variable {c : Config} {w : Width} {p : Packed w}

theorem canonical_w64 (c : Config) (p : Packed .w64) : canonical c p = true := by
  simp [canonical]

theorem canonical_iff (hw : w ≠ .w64) : canonical c p = true ↔
    p.sc.toNat ≤ 6 ∧ (canonicalCompact p = true ∨ canonicalExtended c p = true) := by
  simp [canonical, hw]

theorem canonicalCompact_iff : canonicalCompact p = true ↔ p.tag = 8#4 ∧ p.lanes = 0#_ := by
  simp [canonicalCompact]

/-- No bit above the low k lanes is set exactly when those lanes hold the whole number. -/
theorem lanes_shiftRight_eq_zero_iff (k : Nat) : p.lanes >>> k = 0#_ ↔ p.lanes.toNat < 2 ^ k := by
  rw [← BitVec.toNat_inj, BitVec.toNat_ushiftRight, Nat.shiftRight_eq_div_pow, BitVec.toNat_zero,
    Nat.div_eq_zero_iff_lt (by positivity)]

theorem canonicalExtended_iff : canonicalExtended c p = true ↔
    (9 ≤ p.tag.toNat ∧ p.tag.toNat ≤ lmaxOf w) ∧ p.lanes.toNat < 2 ^ (8 * (p.tag.toNat - 8)) ∧
      minimalBytes (p.magBytes (p.tag.toNat - 8)) = true ∧
      InRange c w (tcValue (p.magBytes (p.tag.toNat - 8))) := by
  simp [canonicalExtended, lanes_shiftRight_eq_zero_iff, InRange, and_assoc]

theorem tag_eq_eight_iff : p.tag = 8#4 ↔ p.tag.toNat = 8 := by
  rw [← BitVec.toNat_inj]
  rfl

/-- A byte array spells a number of its own length. -/
theorem tcValue_bounds {B : List Byte} {L : Nat} (hB : 1 ≤ B.length) (hL : B.length ≤ L) :
    -2 ^ (8 * L - 1) ≤ tcValue B ∧ tcValue B < 2 ^ (8 * L - 1) := by
  have hown : fitsBytes (tcValue B) B.length = true := by
    obtain ⟨hlow, hhigh, -⟩ := signedOf_spec (m := 8 * B.length) (by omega) (bytesToNat_lt_two_pow B)
    rw [fitsBytes_iff, tcValue_eq]
    exact ⟨hlow, hhigh⟩
  exact (fitsBytes_iff _ _).mp (fitsBytes_mono hL hown)

/-- The scale `unpack` reads at the tagged widths is the stored one. -/
theorem unpack_scale (hw : w ≠ .w64) : (unpack p).2 = p.sc.toNat := by
  rw [unpack, if_neg hw]
  split <;> rfl

/-- A canonical value has a scale its width allows. -/
theorem scaleOk_of_canonical (h : canonical c p = true) : ScaleOk w (unpack p).2 := by
  by_cases hw : w = .w64
  · subst hw
    rw [unpack_w64]
    exact ⟨le_rfl, fun _ => rfl⟩
  · rw [unpack_scale hw]
    exact ⟨((canonical_iff hw).mp h).1, fun hn => absurd hn hw⟩

end Canonical

/-- The magnitude of a number in range fits the value port of a legal build (R98). -/
theorem natAbs_lt_of_inRange {c : Config} (hc : c.Legal) {w : Width} {u : Int} (hu : InRange c w u) :
    u.natAbs < 2 ^ c.magW := by
  obtain ⟨-, -, hlow, hhigh⟩ := minOf_le_maxOf_bounds hc w
  obtain ⟨-, -, -, -, hmag, -⟩ := hc
  obtain ⟨hmin, hmax⟩ := hu
  have hpow : (2 : Nat) ^ 120 ≤ 2 ^ c.magW := Nat.pow_le_pow_right (by norm_num) hmag
  have hL : (2 : Int) ^ (8 * lmaxOf w - 1) ≤ 2 ^ 119 :=
    pow_le_pow_right₀ (by norm_num) (by cases w <;> decide)
  norm_num at hL hpow
  omega

/-! ## `pack` and `unpack` (R86, R92) -/

section Pack

variable {c : Config} {w : Width} {u : Int} {s : Nat} {p : Packed w}

theorem ScaleOk.of_tagged (hw : w ≠ .w64) (hs : s ≤ 6) : ScaleOk w s := ⟨hs, fun hn => absurd hn hw⟩

/-- `pack` succeeds exactly with the image of a number in range. -/
theorem pack_eq_ok_iff (hc : c.Legal) (hs : s ≤ 6) :
    pack c w u s = .ok p ↔ InRange c w u ∧ IsImage w u s p := by
  obtain ⟨hu, q, hq, hi⟩ | ⟨hu, hq⟩ | ⟨hu, hq⟩ := pack_cases hc (w := w) (u := u) hs
  · rw [hq]
    refine ⟨fun h => ?_, fun ⟨_, hp⟩ => by rw [isImage_unique hi hp]⟩
    cases h
    exact ⟨hu, hi⟩
  · rw [hq]
    exact ⟨nofun, fun ⟨⟨_, hle⟩, _⟩ => absurd hle (not_le.mpr hu)⟩
  · rw [hq]
    exact ⟨nofun, fun ⟨⟨hle, _⟩, _⟩ => absurd hle (not_le.mpr hu)⟩

/-- What `pack` gives is canonical and reads back as what was packed. -/
theorem canonical_of_pack (hc : c.Legal) (hw : w ≠ .w64) (hs : s ≤ 6) (h : pack c w u s = .ok p) :
    canonical c p = true ∧ unpack p = (u, s) := by
  obtain ⟨hu, hp⟩ := (pack_eq_ok_iff hc hs).mp h
  exact canonical_of_isImage hc hu (.of_tagged hw hs) hp

theorem pack_unpack (hc : c.Legal) (h : canonical c p = true) :
    pack c w (unpack p).1 (unpack p).2 = .ok p := by
  obtain ⟨hu, ⟨hs, -⟩, hp⟩ := isImage_of_canonical hc h
  exact (pack_eq_ok_iff hc hs).mpr ⟨hu, hp⟩

/-- 8 bytes and no fewer hold an integer of 19 digits that fits 64 bits. -/
theorem tcLen_eq_eight (hd : ¬ digits u ≤ 18) (hf : fitsI64 u = true) : tcLen u = 8 :=
  le_antisymm ((fitsI64_iff_tcLen u).mp hf) (eight_le_tcLen hd)

theorem extended_eq_compact (hs : s ≤ 6) (h8 : tcLen u = 8) : extended w s u = compact w s u :=
  isImage_unique (isImage_extended hs h8.ge (h8.trans_le (by cases w <;> decide)))
    (isImage_compact w hs ((fitsI64_iff_tcLen u).mpr h8.le))

theorem pack_of_digits (hd : ¬ digits u ≤ 18) (hu : InRange c w u) :
    pack c w u s = .ok (extended w s u) := by
  obtain ⟨hmin, hmax⟩ := hu
  rw [pack, if_neg hd, if_neg (not_lt.mpr hmax), if_neg (not_lt.mpr hmin)]

end Pack

/-! ## Encoding (R88, R91) -/

/-- ENC.W for an input of a scale it accepts is `pack` of the normalized pair. -/
theorem encTagged_eq_pack (c : Config) (w : Width) {v : Value} (hv : v.scale ≤ 6) :
    encTagged c w v = pack c w (unscaled v * 10 ^ (-v.scale).toNat) v.scale.toNat := by
  rw [encTagged, if_neg (not_lt.mpr hv), (normalizeScale_eq hv _).1]

theorem encTagged_of_scale_gt (c : Config) (w : Width) {v : Value} (hv : 6 < v.scale) :
    encTagged c w v = .error .scaleTooLarge := if_pos hv

/-- The mantissa of ENC.64, scaled up once for a negative scale and once to six places. -/
theorem encMantissa_eq {v : Value} (hv : v.scale ≤ 6) {m : Int}
    (hm : m = unscaled v * 10 ^ (6 - v.scale).toNat) : encMantissa v =
      if 2 ^ 63 - 1 < m then .error .valueTooLarge
      else if m < -2 ^ 63 then .error .valueTooSmall
      else .ok ⟨0#_, trunc64 m⟩ := by
  have hm' : unscaled v * 10 ^ (-v.scale).toNat * 10 ^ (6 - v.scale.toNat) = m := by
    rw [hm, mul_assoc, ← pow_add, show (-v.scale).toNat + (6 - v.scale.toNat) = (6 - v.scale).toNat by omega]
  rw [encMantissa, if_neg (not_lt.mpr hv), (normalizeScale_eq hv _).1]
  simp only [pow10_eq, hm']

theorem encMantissa_of_scale_gt {v : Value} (hv : 6 < v.scale) :
    encMantissa v = .error .scaleTooLarge := if_pos hv

/-- What ENC.W gives is canonical. -/
theorem canonical_of_encTagged {c : Config} (hc : c.Legal) {w : Width} (hw : w ≠ .w64) {v : Value}
    {p : Packed w} (h : encTagged c w v = .ok p) : canonical c p = true := by
  rcases le_or_gt v.scale 6 with hv | hv
  · rw [encTagged_eq_pack _ _ hv] at h
    exact (canonical_of_pack hc hw (by omega) h).1
  · rw [encTagged_of_scale_gt _ _ hv] at h
    cases h

/-- A packed response is the result of its operation. -/
theorem ok_of_complete_packed {s : State} {w : Width} {e : Except ErrorKind (Packed w)} {p : Packed w}
    (h : complete s (e.map (Response.packed w)) = .next (s.answer (.packed w p))) : e = .ok p :=
  ok_of_complete s (fun _ _ h => by cases h; rfl) (fun _ _ h => by cases h) h

end Sys2Proof.Machine

namespace Sys2Proof.Spec

open Sys2Proof.Machine

/-- Settles O28: `pack` gives the image of its pair, and a canonical value is the image of the pair it
reads as. -/
theorem packAndUnpackAreInverse : Obligations.PackAndUnpackAreInverse := by
  intro c w hw hc
  exact ⟨fun u s p hs h => (canonical_of_pack hc hw hs h).2, fun p h => pack_unpack hc h⟩

/-- Settles O23: 8 bytes hold the integer, so both layouts are its image. -/
theorem extendedOfEightBytesIsTheCompactImage : Obligations.ExtendedOfEightBytesIsTheCompactImage := by
  intro c w u s hc hw hs hd hlow hhigh
  have hf : fitsI64 u = true := (fitsI64_iff u).mpr ⟨hlow, hhigh⟩
  have hd18 : ¬ digits u ≤ 18 := by omega
  have h8 := tcLen_eq_eight hd18 hf
  have hpack := pack_of_digits (s := s) hd18 (inRange_of_fits hc w hf)
  have heq := extended_eq_compact (w := w) hs h8
  refine ⟨hpack, h8, heq, ?_, ?_, ?_, (canonical_of_pack hc hw hs hpack).2⟩
  · rw [heq, compact, tag_headerWord hw]
  · rw [heq, compact, lanes_headerWord hw]
  · rw [heq]
    rfl

/-- Settles O25: the negation of canonical form, field by field; and no value of the bytes in use lies
outside the widest range. -/
theorem reservedPatternsAreTheseAndNoOthers : Obligations.ReservedPatternsAreTheseAndNoOthers := by
  refine ⟨canonical_w64, fun c w p hw => ?_, fun c w p hw hc hL h9 hmin hmax => ?_⟩
  · rw [← Bool.not_eq_true, canonical_iff hw, canonicalCompact_iff, canonicalExtended_iff, tag_eq_eight_iff,
      ← Bool.not_eq_true]
    have hceiling : 8 ≤ lmaxOf w := lmaxOf_eq_nlOf_add w ▸ Nat.le_add_left 8 _
    -- a tag below 8 has no form, tag 8 the Compact one alone, a tag above 8 the Extended one alone
    rcases lt_trichotomy p.tag.toNat 8 with htag | htag | htag
    · grind
    · grind
    · grind
  · rw [InRange, hmin, hmax]
    have hlen := length_magBytes p (p.tag.toNat - 8)
    obtain ⟨hlow, hhigh⟩ := tcValue_bounds (B := p.magBytes (p.tag.toNat - 8)) (L := lmaxOf w)
      (by omega) (by omega)
    exact ⟨hlow, by omega⟩

/-- Settles O26, by the tag. -/
theorem unpackReadsTheMagnitudeBytes : Obligations.UnpackReadsTheMagnitudeBytes := by
  refine ⟨unpack_w64, fun w p hw => ⟨unpack_scale hw, fun h8 => ?_, fun h9 hL => ?_⟩⟩
  · rw [unpack_compact hw h8]
  · rw [unpack_extended hw h9 hL]

/-- Settles O33: the mantissa decides between the result and the two range errors. -/
theorem encodeMantissaResults : Obligations.EncodeMantissaResults := by
  intro s v m hv hm
  have hexec : exec .enc64 s = complete s ((encMantissa v).map (Response.packed .w64)) := by
    rw [hv]
    rfl
  rw [hexec]
  refine ⟨fun hs hlow hhigh => ?_, fun hs => ?_, fun hs hm' => ?_, fun hs hm' => ?_⟩
  · rw [encMantissa_eq hs hm, if_neg (not_lt.mpr hhigh), if_neg (not_lt.mpr hlow)]
    rfl
  · rw [encMantissa_of_scale_gt hs]
    rfl
  · rw [encMantissa_eq hs hm, if_pos hm']
    rfl
  · rw [encMantissa_eq hs hm, if_neg (by omega), if_pos hm']
    rfl

end Sys2Proof.Spec

/-! SUPPORT. The arithmetic family as one exact result that is re-encoded (spec R116 to R118), what every
operation answers as a sound response (R67, R98, R171), and the statements on them. -/

namespace Sys2Proof.Machine

open Sys2Proof.Spec

/-! ## The fast paths (R110 to R118) -/

theorem checked_eq_fits_iff {t r : Int} : checked t = .fits r ↔ fitsI64 t = true ∧ t = r := by
  unfold checked
  split <;> simp [*]

theorem AddOp.checked_eq_fits_iff {op : AddOp} {x y r : Int} :
    op.checked x y = .fits r ↔ fitsI64 (op.exact x y) = true ∧ op.exact x y = r := by
  cases op <;> exact Machine.checked_eq_fits_iff

/-- The scale of a sum: the larger of the two (R115). -/
def alignedScale {w : Width} (a b : Packed w) : Nat := max (unpack a).2 (unpack b).2

/-- The exact result of ADD or SUB on the aligned integers (R115, R117). -/
def alignedResult (op : AddOp) {w : Width} (a b : Packed w) : Int :=
  op.exact ((unpack a).1 * 10 ^ (alignedScale a b - (unpack a).2))
    ((unpack b).1 * 10 ^ (alignedScale a b - (unpack b).2))

section Arith

variable {c : Config} {w : Width} {a b : Packed w}

theorem ScaleOk.max {s t : Nat} (hs : ScaleOk w s) (ht : ScaleOk w t) : ScaleOk w (max s t) :=
  ⟨max_le hs.1 ht.1, fun hw => by rw [hs.2 hw, ht.2 hw, Nat.max_self]⟩

theorem scaleOk_alignedScale (ha : canonical c a = true) (hb : canonical c b = true) :
    ScaleOk w (alignedScale a b) :=
  (scaleOk_of_canonical ha).max (scaleOk_of_canonical hb)

/-- In 64 bits the Compact layout is what re-encoding gives. -/
theorem repack_of_fits (hc : c.Legal) {t : Int} {s : Nat} (hs : s ≤ 6) (ht : fitsI64 t = true) :
    repack c w t s = .ok (compact w s t) :=
  repack_of_isImage hc hs (inRange_of_fits hc w ht) (isImage_compact w hs ht)

/-- What re-encoding gives is canonical and reads back as the number at its scale. -/
theorem canonical_of_repack (hc : c.Legal) {t : Int} {s : Nat} {p : Packed w} (hs : ScaleOk w s)
    (h : repack c w t s = .ok p) : canonical c p = true ∧ unpack p = (t, s) := by
  obtain ⟨ht, q, hq, hi⟩ | ⟨-, hq⟩ := repack_cases hc (w := w) (t := t) hs.1
  · cases hq.symm.trans h
    exact canonical_of_isImage hc ht hs hi
  · cases hq.symm.trans h

/-! ## ADD and SUB (R117) -/

/-- A fast result is the Compact layout of the exact one, which no checked step flagged. -/
theorem fastAddSub_eq_some {op : AddOp} {p : Packed w} (h : fastAddSub op a b = some p) :
    fitsI64 (alignedResult op a b) = true ∧ p = compact w (alignedScale a b) (alignedResult op a b) := by
  simp only [fastAddSub, pow10_eq] at h
  split at h
  · split at h
    · next xa xb hxa hxb =>
      obtain ⟨-, rfl⟩ := checked_eq_fits_iff.mp hxa
      obtain ⟨-, rfl⟩ := checked_eq_fits_iff.mp hxb
      split at h
      · next r hr =>
        obtain ⟨hfits, rfl⟩ := AddOp.checked_eq_fits_iff.mp hr
        cases h
        exact ⟨hfits, rfl⟩
      · cases h
    · cases h
  · cases h

theorem slowAddSub_eq (c : Config) (op : AddOp) (a b : Packed w) :
    slowAddSub c op a b = repack c w (alignedResult op a b) (alignedScale a b) := by
  simp only [slowAddSub, pow10_eq]
  rfl

/-- R118 for ADD and SUB: on canonical operands the exact result, re-encoded. -/
theorem addSub_eq_repack (hc : c.Legal) (op : AddOp) (ha : canonical c a = true) (hb : canonical c b = true) :
    addSub c op a b = repack c w (alignedResult op a b) (alignedScale a b) := by
  rw [addSub, ha, hb, Bool.and_self, if_pos rfl]
  split
  · next p hp =>
    obtain ⟨hfits, rfl⟩ := fastAddSub_eq_some hp
    rw [repack_of_fits hc (scaleOk_alignedScale ha hb).1 hfits]
  · exact slowAddSub_eq c op a b

theorem addSub_of_not_canonical (op : AddOp) (h : ¬ (canonical c a && canonical c b) = true) :
    addSub c op a b = .error .nonCanonicalOperand := if_neg h

/-! ## NEG (R125) -/

theorem fits_of_isCompact (h : isCompact a = true) : fitsI64 (unpack a).1 = true := by
  have hlow := BitVec.le_toInt a.b
  have hhigh := BitVec.toInt_lt (x := a.b)
  have hread : (unpack a).1 = a.b.toInt := by
    by_cases hw : w = .w64
    · simp [unpack, hw]
    · rw [unpack_compact hw (by simpa [isCompact, hw] using h)]
  rw [hread, fitsI64_iff]
  norm_num at hlow hhigh ⊢
  omega

/-- The header word of a Compact value serves every number of 64 bits (R125). -/
theorem isImage_with_body {u t : Int} {s : Nat} (ha : IsImage w u s a) (hu : fitsI64 u = true)
    (ht : fitsI64 t = true) : IsImage w t s ⟨a.h, trunc64 t⟩ := by
  refine ⟨rfl, fun hw => ?_⟩
  obtain ⟨hsc, htag, hlanes⟩ := ha.2 hw
  rw [imageTag_of_fits hu] at htag hlanes
  rw [imageTag_of_fits ht]
  exact ⟨hsc, htag, hlanes.trans (by simp)⟩

/-- R118 for NEG: on a canonical operand the exact negation, re-encoded. -/
theorem negate_eq_repack (hc : c.Legal) (ha : canonical c a = true) :
    negate c a = repack c w (-(unpack a).1) (unpack a).2 := by
  obtain ⟨hu, ⟨hs, -⟩, himage⟩ := isImage_of_canonical hc ha
  simp only [negate, if_pos ha]
  split
  · next hzero =>
    rw [hzero] at hu himage
    rw [hzero, neg_zero, repack_of_isImage hc hs hu himage]
  · split
    · next hfast =>
      rw [Bool.and_eq_true, decide_eq_true_eq] at hfast
      obtain ⟨hcompact, hmin⟩ := hfast
      have hfits := fits_of_isCompact hcompact
      have hneg : fitsI64 (-(unpack a).1) = true := by
        rw [fitsI64_iff] at hfits ⊢
        omega
      rw [repack_of_isImage hc hs (inRange_of_fits hc w hneg) (isImage_with_body himage hfits hneg)]
    · rfl

theorem canonical_of_negate_eq_ok {p : Packed w} (h : negate c a = .ok p) : canonical c a = true := by
  by_contra hn
  rw [negate, if_neg hn] at h
  cases h

/-- R73: where the negation of b is answered, subtracting b is adding it. -/
theorem sub_eq_add_of_negate (hc : c.Legal) {nb : Packed w} (h : negate c b = .ok nb) :
    addSub c .sub a b = addSub c .add a nb := by
  have hb := canonical_of_negate_eq_ok h
  rw [negate_eq_repack hc hb] at h
  obtain ⟨hnb, hread⟩ := canonical_of_repack hc (scaleOk_of_canonical hb) h
  by_cases ha : canonical c a = true
  · have hscale : alignedScale a nb = alignedScale a b := by rw [alignedScale, hread, alignedScale]
    have hresult : alignedResult .add a nb = alignedResult .sub a b := by
      simp only [alignedResult, hscale, hread, AddOp.exact]
      ring
    rw [addSub_eq_repack hc _ ha hb, addSub_eq_repack hc _ ha hnb, hresult, hscale]
  · rw [addSub_of_not_canonical _ (by simp [ha]), addSub_of_not_canonical _ (by simp [ha])]

/-! ## RSC (R129) -/

theorem widen_eq_repack (hc : c.Legal) (a : Packed w) {n : Nat} (hn : n ≤ 6) :
    widen c a n = repack c w ((unpack a).1 * 10 ^ (n - (unpack a).2)) n := by
  simp only [widen, pow10_eq]
  split
  · split
    · next r hr =>
      obtain ⟨hfits, rfl⟩ := checked_eq_fits_iff.mp hr
      rw [repack_of_fits hc hn hfits]
    · rfl
  · rfl

/-- All RSC can answer: the operand at its own scale, or its exact widening, re-encoded. -/
theorem rescale_eq_ok_cases (hc : c.Legal) {n : Int} {p : Packed w} (h : rescale c a n = .ok p) :
    canonical c a = true ∧ ((n = (unpack a).2 ∧ p = a) ∨
      (((unpack a).2 : Int) < n ∧ n ≤ 6 ∧
        repack c w ((unpack a).1 * 10 ^ (n.toNat - (unpack a).2)) n.toNat = .ok p)) := by
  rw [rescale] at h
  split at h
  · next ha =>
    refine ⟨ha, ?_⟩
    split at h
    · cases h
    · next hn =>
      split at h
      · next heq =>
        cases h
        exact .inl ⟨heq, rfl⟩
      · next hne =>
        split at h
        · cases h
        · next hle =>
          rw [widen_eq_repack hc a (by omega)] at h
          exact .inr ⟨by omega, by omega, h⟩
  · cases h

/-! ## The results of the operations are sound -/

theorem canonical_of_addSub (hc : c.Legal) {op : AddOp} {p : Packed w} (h : addSub c op a b = .ok p) :
    canonical c p = true := by
  by_cases hab : (canonical c a && canonical c b) = true
  · obtain ⟨ha, hb⟩ := (Bool.and_eq_true _ _).mp hab
    rw [addSub_eq_repack hc op ha hb] at h
    exact (canonical_of_repack hc (scaleOk_alignedScale ha hb) h).1
  · rw [addSub_of_not_canonical op hab] at h
    cases h

theorem canonical_of_negate (hc : c.Legal) {p : Packed w} (h : negate c a = .ok p) :
    canonical c p = true := by
  have ha := canonical_of_negate_eq_ok h
  rw [negate_eq_repack hc ha] at h
  exact (canonical_of_repack hc (scaleOk_of_canonical ha) h).1

theorem canonical_of_rescale (hc : c.Legal) {n : Int} {p : Packed w} (h : rescale c a n = .ok p) :
    canonical c p = true := by
  obtain ⟨ha, ⟨-, rfl⟩ | ⟨hlt, hn, hp⟩⟩ := rescale_eq_ok_cases hc h
  · exact ha
  · have hw : w ≠ .w64 := fun hw => by
      have := (scaleOk_of_canonical ha).2 hw
      omega
    exact (canonical_of_repack hc (.of_tagged hw (by omega)) hp).1

/-- What DEC answers fits the value port and has no negative zero (R98). -/
theorem sound_of_dec (hc : c.Legal) {v : Value} (h : dec c a = .ok v) : (Response.value v).Sound c := by
  rw [dec] at h
  split at h
  · next ha =>
    obtain ⟨hu, ⟨hs, -⟩, -⟩ := isImage_of_canonical hc ha
    cases h
    refine ⟨⟨Int.natCast_nonneg _, Int.ofNat_le.mpr hs⟩, natAbs_lt_of_inRange hc hu, fun hmag => ?_⟩
    have hzero : (unpack a).1 = 0 := Int.natAbs_eq_zero.mp hmag
    simp [valueOf, hzero]
  · cases h

end Arith

/-- An operation whose results are sound answers with a sound response; an error carries nothing. -/
theorem sound_of_complete {α : Type} {s : State} {e : Except ErrorKind α} {g : α → Response} {x : Response}
    (hg : ∀ y, e = .ok y → (g y).Sound s.cfg) (h : complete s (e.map g) = .next (s.answer x)) :
    x.Sound s.cfg := by
  cases e with
  | ok y =>
    cases (next_answer_inj s).mp h
    exact hg y rfl
  | error k =>
    cases (next_answer_inj s).mp h
    trivial

/-- Every operation of a legal build answers with a sound response. -/
theorem sound_of_exec {i : Instr} {s : State} {x : Response} (hc : s.cfg.Legal)
    (h : exec i s = .next (s.answer x)) : x.Sound s.cfg := by
  rw [← instrOf_width_op i] at h
  generalize i.width = w at h
  generalize i.op = o at h
  cases o with
  | enc =>
    by_cases hw : w = .w64
    · subst hw
      exact sound_of_complete (g := Response.packed .w64) (fun p _ => canonical_w64 _ p) (exec_enc_w64 s ▸ h)
    · exact sound_of_complete (fun _ => canonical_of_encTagged hc hw) (exec_enc s hw ▸ h)
  | dec => exact sound_of_complete (fun _ => sound_of_dec hc) (exec_dec s w ▸ h)
  | add => exact sound_of_complete (fun _ => canonical_of_addSub hc) (exec_add s w ▸ h)
  | sub => exact sound_of_complete (fun _ => canonical_of_addSub hc) (exec_sub s w ▸ h)
  | neg => exact sound_of_complete (fun _ => canonical_of_negate hc) (exec_neg s w ▸ h)
  | rsc => exact sound_of_complete (fun _ => canonical_of_rescale hc) (exec_rsc s w ▸ h)
  | cmp => exact sound_of_complete (g := Response.scalar) (fun _ _ => trivial) (exec_cmp s w ▸ h)
  | eq =>
    cases (next_answer_inj s).mp (exec_eq s w ▸ h)
    trivial
  | hash =>
    cases (next_answer_inj s).mp (exec_hash s w ▸ h)
    trivial

/-! ## The invariant -/

theorem State.Inv.dropPending {s : State} (h : s.Inv) : s.dropPending.Inv where
  legal := h.legal
  offered_fit := h.offered_fit
  sample_fits := h.sample_fits
  pending_sound := List.forall_mem_nil _
  delivered_sound := h.delivered_sound

theorem State.Inv.deliver {s : State} (h : s.Inv) : s.deliver.Inv := by
  have hkept : ∀ x ∈ s.deliver.delivered ++ s.deliver.responses, x.Sound s.cfg := by
    rw [s.deliver_keeps_order]
    exact List.forall_mem_append.mpr ⟨h.delivered_sound, h.pending_sound⟩
  obtain ⟨hdelivered, hpending⟩ := List.forall_mem_append.mp hkept
  constructor <;> simp only [State.deliver_cfg, State.deliver_requests, State.deliver_req]
  exacts [h.legal, h.offered_fit, h.sample_fits, hpending, hdelivered]

theorem State.Inv.taken {s : State} {q : Request} {rest : List Request} (h : s.Inv)
    (hq : s.requests = q :: rest) : (taken s q rest).Inv := by
  have hfit := h.offered_fit
  rw [hq, List.forall_mem_cons] at hfit
  obtain ⟨hhead, hrest⟩ := hfit
  have hd := h.deliver
  exact ⟨hd.legal, s.deliver_cfg ▸ hrest, s.deliver_cfg ▸ hhead, hd.pending_sound, hd.delivered_sound⟩

theorem State.Inv.answer {s : State} {x : Response} (h : s.Inv) (hx : x.Sound s.cfg) : (s.answer x).Inv where
  legal := h.legal
  offered_fit := h.offered_fit
  sample_fits := h.sample_fits
  pending_sound := List.forall_mem_append.mpr ⟨h.pending_sound, List.forall_mem_singleton.mpr hx⟩
  delivered_sound := h.delivered_sound

/-- The response to the request at the head of the channel is sound. -/
theorem sound_of_step {s : State} {q : Request} {rest : List Request} {x : Response} (hc : s.cfg.Legal)
    (hr : s.rst = false) (hq : s.requests = q :: rest)
    (h : step s = .next ((taken s q rest).answer x)) : x.Sound s.cfg := by
  rw [step_request s hr hq] at h
  cases hd : decode q.cmd with
  | ok i =>
    rw [hd] at h
    have hc' : (taken s q rest).cfg.Legal := by rwa [taken_cfg]
    exact taken_cfg s q rest ▸ sound_of_exec hc' h
  | error k =>
    rw [hd] at h
    cases (next_answer_inj (taken s q rest)).mp h
    trivial

end Sys2Proof.Machine

namespace Sys2Proof.Spec

open Sys2Proof.Machine

/-- Settles O12, by the three things a step can do; the one response it can add is sound. -/
theorem everyStepKeepsResponsesSound : Obligations.EveryStepKeepsResponsesSound := by
  intro s t h ht
  obtain ⟨-, hs⟩ | ⟨-, -, hs⟩ | ⟨q, rest, x, hr, hq, hs⟩ := step_cases s
  · cases hs.symm.trans ht
    exact h.dropPending
  · cases hs.symm.trans ht
    exact h.deliver
  · cases hs.symm.trans ht
    have hx := sound_of_step h.legal hr hq hs
    exact (h.taken hq).answer (by rwa [taken_cfg])

/-- Settles O43: the negation is the operand at the same scale with its sign changed. -/
theorem subIsAddOfTheNegation : Obligations.SubIsAddOfTheNegation := by
  intro w s n t nb hc hn ht hneg hnb ha hb
  rw [exec_neg, hn, hneg] at hnb
  rw [exec_sub, exec_add, ht, ha, hb, sub_eq_add_of_negate hc (ok_of_complete_packed hnb)]
  exact complete_same s t _

end Sys2Proof.Spec

/-! SUPPORT. The request that holds a given value, and ENC as the inverse of reading a canonical pattern
(spec R67), with the statement on it. -/

namespace Sys2Proof.Machine

open Sys2Proof.Spec

/-- A request whose value operand is v, a value with a stored scale; every other field is zero. -/
def requestOf (v : Value) : Request :=
  { Request.zero with vNeg := BitVec.ofBool v.neg, vMag := v.mag, vScale := v.scale.toNat }

section RequestOf

variable {c : Config} {v : Value}

theorem four_le_scW (hc : c.Legal) : 4 ≤ c.scW := by
  obtain ⟨-, -, -, -, -, hsc⟩ := hc
  exact hsc

theorem scale_lt_port (hc : c.Legal) (hs : v.scale ≤ 6) : v.scale.toNat < 2 ^ (c.scW - 1) := by
  have hsc := four_le_scW hc
  have hpow : 2 ^ 3 ≤ 2 ^ (c.scW - 1) := Nat.pow_le_pow_right (by norm_num) (by omega)
  omega

theorem requestOf_fits (hc : c.Legal) (hm : v.mag < 2 ^ c.magW) (hs : v.scale ≤ 6) :
    (requestOf v).Fits c :=
  ⟨hm, (scale_lt_port hc hs).trans_le (Nat.pow_le_pow_right (by norm_num) (Nat.sub_le _ _)),
    Nat.two_pow_pos _⟩

/-- The port words of `requestOf v` are read back as v. -/
theorem value_requestOf (hc : c.Legal) (hm : v.mag < 2 ^ c.magW) (h0 : 0 ≤ v.scale) (hs : v.scale ≤ 6) :
    (requestOf v).value c = v := by
  have hf := requestOf_fits hc hm hs
  have hscale : ((requestOf v).value c).scale = v.scale := by
    have hlt : (requestOf v).vScale < 2 ^ (c.scW - 1) := scale_lt_port hc hs
    rw [hf.value_scale (le_trans (by norm_num) (four_le_scW hc)), if_pos hlt]
    exact Int.toNat_of_nonneg h0
  have hneg : ((requestOf v).value c).neg = v.neg := by
    rw [Bool.eq_iff_iff, Request.value_neg_iff]
    cases h : v.neg <;> simp [requestOf, h]
  calc (requestOf v).value c
      = ⟨((requestOf v).value c).neg, ((requestOf v).value c).mag, ((requestOf v).value c).scale⟩ := rfl
    _ = v := by rw [hneg, hf.value_mag, hscale]; rfl

end RequestOf

/-- ENC of the value a canonical pattern stands for answers with the pattern. -/
theorem exec_enc_of_canonical {w : Width} {p : Packed w} {s : State} (hc : s.cfg.Legal)
    (h : canonical s.cfg p = true) (hv : s.req.value s.cfg = valueOf (unpack p).1 (unpack p).2) :
    exec (instrOf w .enc) s = .next (s.answer (.packed w p)) := by
  obtain ⟨hu, ⟨hs, h6⟩, hp⟩ := isImage_of_canonical hc h
  have hscale : (valueOf (unpack p).1 (unpack p).2).scale = ((unpack p).2 : Int) := rfl
  by_cases hw : w = .w64
  · subst hw
    obtain ⟨hmin, hmax⟩ := hu
    simp only [minOf, maxOf] at hmin hmax
    have hb : (⟨0#_, trunc64 (unpack p).1⟩ : Packed .w64) = p :=
      Packed.ext_fields hp.1.symm fun hn => absurd rfl hn
    have hm : (unpack p).1 = unscaled (valueOf (unpack p).1 (unpack p).2) *
        10 ^ (6 - (valueOf (unpack p).1 (unpack p).2).scale).toNat := by
      rw [unscaled_valueOf, hscale, h6 rfl]
      norm_num
    rw [exec_enc_w64, hv, encMantissa_eq (by rw [hscale]; omega) hm, if_neg (not_lt.mpr hmax),
      if_neg (not_lt.mpr hmin), hb]
    rfl
  · rw [exec_enc _ hw, hv, encTagged_eq_pack _ _ (by rw [hscale]; omega), unscaled_valueOf, hscale]
    simp only [Int.toNat_natCast, Int.toNat_neg_natCast, pow_zero, mul_one]
    rw [pack_unpack hc h]
    rfl

end Sys2Proof.Machine

namespace Sys2Proof.Spec

open Sys2Proof.Machine

/-- Settles O29: the request that holds the value of a canonical pattern makes ENC answer with it. -/
theorem canonicalExactlyWhatEncodeProduces : Obligations.CanonicalExactlyWhatEncodeProduces := by
  intro c w p hc
  refine ⟨⟨fun h => ?encoded, ?canonical⟩, fun h _ => pack_unpack hc h⟩
  case encoded =>
    obtain ⟨hu, ⟨hs, -⟩, -⟩ := isImage_of_canonical hc h
    have hm := natAbs_lt_of_inRange hc hu
    have hs' : ((unpack p).2 : Int) ≤ 6 := by omega
    exact ⟨{ State.reset with cfg := c, req := requestOf (valueOf (unpack p).1 (unpack p).2) }, rfl,
      requestOf_fits hc hm hs', exec_enc_of_canonical hc h (value_requestOf hc hm (Int.natCast_nonneg _) hs')⟩
  case canonical =>
    rintro ⟨s, rfl, -, h⟩
    exact sound_of_exec hc h

end Sys2Proof.Spec

/-! SUPPORT. The codec family (spec 40_codec.md): the external math library in the spec's own bounds (R80 to
R83), when `pack` raises (R86, R87), the pair ENC stores for a value and the number it stands for (R84, R88,
R91), the value port of DEC (R93 to R98), and the statements on them. -/

namespace Sys2Proof.Machine

open Sys2Proof.Spec

/-! ## The external math library (R81 to R83) -/

theorem natAbs_lt_ten_pow_iff (n : Int) (d : Nat) : n.natAbs < 10 ^ d ↔ |n| < 10 ^ d := by
  rw [Int.abs_eq_natAbs]
  exact_mod_cast Iff.rfl

/-- The range of L bytes with its largest number written out (R82). -/
theorem fitsBytes_iff_le (n : Int) (L : Nat) :
    fitsBytes n L = true ↔ -2 ^ (8 * L - 1) ≤ n ∧ n ≤ 2 ^ (8 * L - 1) - 1 := by
  rw [fitsBytes_iff, Int.le_sub_one_iff]

theorem tcLen_le_iff_fitsBytes (n : Int) {L : Nat} (hL : 1 ≤ L) : tcLen n ≤ L ↔ fitsBytes n L = true := by
  rw [fitsBytes_iff, tcLen_le_iff n L hL]

theorem tcValue_tcBytes {n : Int} {L : Nat} (hL : 1 ≤ L) (h : fitsBytes n L = true) :
    tcValue (tcBytes n L) = n := by
  obtain ⟨hlow, hhigh⟩ := (fitsBytes_iff n L).mp h
  rw [tcValue_eq, tcBytes_length, bytesToNat_tcBytes]
  exact signedOf_emod (by omega) hlow hhigh

/-- Byte i of a two's-complement form, as the formula of R83 gives it. -/
theorem toNat_of_getElem?_tcBytes {n : Int} {L i : Nat} {x : Byte} (h : (tcBytes n L)[i]? = some x) :
    (x.toNat : Int) = n % 2 ^ (8 * L) / 2 ^ (8 * (L - 1 - i)) % 256 := by
  have hi : i < L := by
    obtain ⟨hi, -⟩ := List.getElem?_eq_some_iff.mp h
    rwa [tcBytes_length] at hi
  have hnn : 0 ≤ n % 2 ^ (8 * L) := Int.emod_nonneg n (by positivity)
  rw [getElem?_tcBytes n hi, bytesToNat_tcBytes] at h
  cases h
  rw [BitVec.toNat_ofNat]
  push_cast
  rw [Int.toNat_of_nonneg hnn]

/-- Byte arrays of one length that spell one number are equal, digit by digit to base 256. -/
theorem eq_of_bytesToNat_eq {A B : List Byte} (hl : A.length = B.length)
    (h : bytesToNat A = bytesToNat B) : A = B := by
  induction A generalizing B with
  | nil => exact (List.length_eq_zero_iff.mp hl.symm).symm
  | cons a A ih =>
    cases B with
    | nil => cases hl
    | cons b B =>
      have hl' : A.length = B.length := Nat.succ.inj hl
      have hA := bytesToNat_lt A
      have hB := bytesToNat_lt B
      rw [bytesToNat_cons, bytesToNat_cons, ← hl', mul_comm, mul_comm b.toNat] at h
      rw [← hl'] at hB
      have hhead := congrArg (· / 256 ^ A.length) h
      simp only [Nat.mul_add_div (Nat.zero_lt_of_lt hA), Nat.div_eq_of_lt hA, Nat.div_eq_of_lt hB,
        add_zero] at hhead
      rw [hhead] at h
      rw [BitVec.eq_of_toNat_eq hhead, ih hl' (Nat.add_left_cancel h)]

theorem tcBytes_tcValue {B : List Byte} (hB : 1 ≤ B.length) : tcBytes (tcValue B) B.length = B := by
  obtain ⟨-, -, hbits⟩ := signedOf_spec (m := 8 * B.length) (by omega) (bytesToNat_lt_two_pow B)
  refine eq_of_bytesToNat_eq (tcBytes_length _ _) ?_
  rw [bytesToNat_tcBytes, tcValue_eq, hbits, Int.toNat_natCast]

/-- Minimality in the first two bytes (R66, R83). -/
theorem minimalBytes_iff_leading {B : List Byte} (hB : 1 ≤ B.length) :
    minimalBytes B = true ↔ B.length = 1 ∨
      ∀ b0 b1 : Byte, B[0]? = some b0 → B[1]? = some b1 →
        ¬ (b0 = 0x00#8 ∧ b1.toNat < 0x80) ∧ ¬ (b0 = 0xFF#8 ∧ 0x80 ≤ b1.toNat) := by
  match B, hB with
  | [_], _ => exact iff_of_true rfl (.inl rfl)
  | _ :: _ :: _, _ => simp [minimalBytes, or_iff_not_imp_left]

/-- A byte array is minimal exactly when its number has no shorter form (R83). -/
theorem minimalBytes_iff_tcLen {B : List Byte} (hB : 1 ≤ B.length) :
    minimalBytes B = true ↔ tcLen (tcValue B) = B.length := by
  have hle : tcLen (tcValue B) ≤ B.length := (tcLen_le_iff _ _ hB).mpr (tcValue_bounds hB le_rfl)
  obtain ⟨hone, -, -⟩ := tcLen_spec (tcValue B)
  obtain h1 | h2 : B.length = 1 ∨ 2 ≤ B.length := by omega
  · exact iff_of_true ((minimalBytes_iff_leading hB).mpr (.inl h1)) (by omega)
  · rw [minimalBytes_iff_not_shorter B h2, ← tcLen_le_iff_fitsBytes _ (by omega)]
    omega

/-! ## When `pack` raises (R86, R87) -/

section Pack

variable {c : Config} {w : Width} {u : Int}

theorem inRange_of_digits (hc : c.Legal) (w : Width) (h : digits u ≤ 18) : InRange c w u :=
  inRange_of_fits hc w (fits_of_digits h)

theorem exists_pack_eq_ok (hu : InRange c w u) (s : Nat) : ∃ p, pack c w u s = .ok p := by
  by_cases hd : digits u ≤ 18
  · exact ⟨_, if_pos hd⟩
  · exact ⟨_, pack_of_digits hd hu⟩

theorem pack_of_maxOf_lt (hc : c.Legal) (h : maxOf c w < u) (s : Nat) :
    pack c w u s = .error .valueTooLarge := by
  have hd : ¬ digits u ≤ 18 := fun hd => (inRange_of_digits hc w hd).2.not_gt h
  rw [pack, if_neg hd, if_pos h]

theorem pack_of_lt_minOf (hc : c.Legal) (h : u < minOf c w) (s : Nat) :
    pack c w u s = .error .valueTooSmall := by
  have hd : ¬ digits u ≤ 18 := fun hd => (inRange_of_digits hc w hd).1.not_gt h
  obtain ⟨hmin, hmax, -, -⟩ := minOf_le_maxOf_bounds hc w
  rw [pack, if_neg hd, if_neg (by omega), if_pos h]

theorem pack_eq_error_iff (hc : c.Legal) (s : Nat) :
    (∃ k, pack c w u s = .error k) ↔ maxOf c w < u ∨ u < minOf c w := by
  refine ⟨fun ⟨k, hk⟩ => ?raised, ?outside⟩
  case raised =>
    by_contra hn
    rw [not_or, not_lt, not_lt] at hn
    obtain ⟨p, hp⟩ := exists_pack_eq_ok (c := c) (w := w) hn.symm s
    cases hk.symm.trans hp
  case outside =>
    rintro (h | h)
    · exact ⟨_, pack_of_maxOf_lt hc h s⟩
    · exact ⟨_, pack_of_lt_minOf hc h s⟩

end Pack

/-! ## The number a pair stands for (R7, R84) -/

theorem number_mul_ten_pow (u : Int) {s t : Nat} (h : s ≤ t) : number (u * 10 ^ (t - s)) t = number u s := by
  obtain ⟨k, rfl⟩ := Nat.exists_eq_add_of_le h
  rw [number, number, Nat.add_sub_cancel_left, pow_add]
  push_cast
  field_simp

theorem number_left_inj {u t : Int} (s : Nat) : number u s = number t s ↔ u = t := by
  rw [number, number, div_left_inj' (by positivity), Int.cast_inj]

theorem numberOfValue_valueOf (u : Int) (s : Nat) : numberOfValue (valueOf u s) = number u s := by
  rw [numberOfValue, unscaled_valueOf, number, div_eq_mul_inv, ← zpow_natCast, ← zpow_neg]
  rfl

theorem normalizeScale_scale_le (u : Int) {s : Int} (hs : s ≤ 6) : (normalizeScale u s).2 ≤ 6 := by
  obtain ⟨heq, hle⟩ := normalizeScale_eq hs u
  rwa [heq]

/-- R84: multiplying a negative scale out keeps the number. -/
theorem number_normalizeScale (u : Int) {s : Int} (hs : s ≤ 6) :
    number (normalizeScale u s).1 (normalizeScale u s).2 = (u : ℚ) * (10 : ℚ) ^ (-s) := by
  rw [(normalizeScale_eq hs u).1]
  obtain ⟨n, rfl | rfl⟩ := s.eq_nat_or_neg
  · simp [number, div_eq_mul_inv]
  · simp [number]

/-! ## What ENC stores (R88, R91) -/

/-- The pair ENC.W stores for v: the normalized one, at W = 64 scaled up to six places. -/
def storedPair (w : Width) (v : Value) : Int × Nat :=
  let n := normalizeScale (unscaled v) v.scale
  if w = .w64 then (n.1 * 10 ^ (6 - n.2), 6) else n

theorem storedPair_tagged {w : Width} (hw : w ≠ .w64) (v : Value) :
    storedPair w v = normalizeScale (unscaled v) v.scale := if_neg hw

theorem storedPair_w64 (v : Value) : storedPair .w64 v =
    ((normalizeScale (unscaled v) v.scale).1 * 10 ^ (6 - (normalizeScale (unscaled v) v.scale).2), 6) := rfl

theorem number_storedPair (w : Width) {v : Value} (hv : v.scale ≤ 6) :
    number (storedPair w v).1 (storedPair w v).2 = numberOfValue v := by
  have hnorm : number (normalizeScale (unscaled v) v.scale).1 (normalizeScale (unscaled v) v.scale).2 =
      numberOfValue v := number_normalizeScale (unscaled v) hv
  by_cases hw : w = .w64
  · subst hw
    rw [storedPair_w64, number_mul_ten_pow _ (normalizeScale_scale_le _ hv), hnorm]
  · rw [storedPair_tagged hw, hnorm]

/-- What ENC.64 accepts, and the mantissa it gives. -/
theorem encMantissa_eq_ok {v : Value} {p : Packed .w64} (h : encMantissa v = .ok p) :
    v.scale ≤ 6 ∧ fitsI64 (storedPair .w64 v).1 = true ∧ p = ⟨0#_, trunc64 (storedPair .w64 v).1⟩ := by
  simp only [encMantissa, pow10_eq] at h
  rw [storedPair_w64]
  split at h
  · cases h
  · next hscale =>
    split at h
    · cases h
    · next hmax =>
      split at h
      · cases h
      · next hmin =>
        cases h
        exact ⟨not_lt.mp hscale, (fitsI64_iff _).mpr ⟨not_lt.mp hmin, not_lt.mp hmax⟩, rfl⟩

/-- What ENC.96 and ENC.128 accept: the stored pair, packed. -/
theorem encTagged_eq_ok {c : Config} {w : Width} (hw : w ≠ .w64) {v : Value} {p : Packed w}
    (h : encTagged c w v = .ok p) :
    v.scale ≤ 6 ∧ pack c w (storedPair w v).1 (storedPair w v).2 = .ok p := by
  rw [encTagged] at h
  rw [storedPair_tagged hw]
  split at h
  · cases h
  · next hscale => exact ⟨not_lt.mp hscale, h⟩

/-- What ENC.W answers is canonical and reads back as the stored pair. -/
theorem unpack_of_exec_enc {w : Width} {s : State} {p : Packed w} (hc : s.cfg.Legal)
    (h : exec (instrOf w .enc) s = .next (s.answer (.packed w p))) :
    (s.req.value s.cfg).scale ≤ 6 ∧ canonical s.cfg p = true ∧
      unpack p = storedPair w (s.req.value s.cfg) := by
  by_cases hw : w = .w64
  · subst hw
    obtain ⟨hscale, hfits, rfl⟩ := encMantissa_eq_ok (ok_of_complete_packed (exec_enc_w64 s ▸ h))
    exact ⟨hscale, canonical_of_isImage hc (inRange_of_fits hc _ hfits) ⟨le_rfl, fun _ => rfl⟩
      ⟨rfl, fun hn => absurd rfl hn⟩⟩
  · obtain ⟨hscale, hpack⟩ := encTagged_eq_ok hw (ok_of_complete_packed (exec_enc s hw ▸ h))
    rw [storedPair_tagged hw] at hpack ⊢
    exact ⟨hscale, canonical_of_pack hc hw (normalizeScale_scale_le _ hscale) hpack⟩

/-- Canonical values that read alike are equal. -/
theorem unpack_inj {c : Config} (hc : c.Legal) {w : Width} {p q : Packed w} (hp : canonical c p = true)
    (hq : canonical c q = true) : unpack p = unpack q ↔ p = q := by
  refine ⟨fun h => ?_, congrArg unpack⟩
  obtain ⟨-, -, hip⟩ := isImage_of_canonical hc hp
  obtain ⟨-, -, hiq⟩ := isImage_of_canonical hc hq
  exact isImage_unique (h ▸ hip) hiq

/-! ## DEC and the value port (R93 to R98) -/

theorem exec_dec_of_canonical {w : Width} {s : State} (h : canonical s.cfg (s.req.packedA w) = true) :
    exec (instrOf w .dec) s = .next (s.answer
      (.value (valueOf (unpack (s.req.packedA w)).1 (unpack (s.req.packedA w)).2))) := by
  rw [exec_dec, dec, if_pos h]
  rfl

theorem exec_dec_of_not_canonical {w : Width} {s : State} (h : canonical s.cfg (s.req.packedA w) = false) :
    exec (instrOf w .dec) s = .next (s.answer (.err .nonCanonicalOperand)) := by
  rw [exec_dec, dec, if_neg (ne_true_of_eq_false h)]
  rfl

/-- R98: a magnitude and a scale that fit their ports stand there whole. -/
theorem Response.ports_valueOf {c : Config} {u : Int} {s : Nat} (hu : u.natAbs < 2 ^ c.magW)
    (hs : s < 2 ^ c.scW) : (Response.value (valueOf u s)).ports c =
      { st := 0#4, rH := 0#64, rB := 0#64, rvNeg := BitVec.ofBool (valueOf u s).neg,
        rvMag := u.natAbs, rvScale := s, rS := 0#32 } := by
  simp [Response.ports, Ports.zero, valueOf, Nat.mod_eq_of_lt hu, Nat.mod_eq_of_lt hs]

theorem scale_lt_two_pow_scW {c : Config} (hc : c.Legal) {s : Nat} (hs : s ≤ 6) : s < 2 ^ c.scW := by
  have hpow : 2 ^ 4 ≤ 2 ^ c.scW := Nat.pow_le_pow_right (by norm_num) (four_le_scW hc)
  omega

end Sys2Proof.Machine

namespace Sys2Proof.Spec

open Sys2Proof.Machine

/-- Settles O35: DEC reads the stored pair back, which stands for the number of the input. -/
theorem decodeUndoesEncode : Obligations.DecodeUndoesEncode := by
  rintro w s t p v hc ht rfl henc rfl
  obtain ⟨hscale, hp, hread⟩ := unpack_of_exec_enc hc henc
  refine ⟨_, exec_dec_of_canonical (ht ▸ hp), ?number, fun hw => ?tagged, fun hw => ?mantissa⟩
  case number => rw [numberOfValue_valueOf, hread, number_storedPair w hscale]
  case tagged =>
    rw [unscaled_valueOf, hread, storedPair_tagged hw]
    refine ⟨?_, rfl⟩
    rw [(normalizeScale_eq hscale _).1]
    exact Int.toNat_eq_max _
  case mantissa =>
    subst hw
    rw [unscaled_valueOf, hread]
    exact ⟨rfl, rfl⟩

/-- Settles O18: the digit search, in the spec's |n|. -/
theorem digitsIsTheLeastDecimalLength : Obligations.DigitsIsTheLeastDecimalLength := by
  intro n
  simpa only [natAbs_lt_ten_pow_iff] using digits_spec n

/-- Settles O19: the length search, in the spec's bounds. -/
theorem byteLengthIsTheShortest : Obligations.ByteLengthIsTheShortest := by
  intro n
  obtain ⟨hone, hfits, hleast⟩ := tcLen_spec n
  exact ⟨hone, (fitsBytes_iff_le n _).mp hfits,
    fun L hL hlow hhigh => hleast L hL ((fitsBytes_iff_le n L).mpr ⟨hlow, hhigh⟩)⟩

/-- Settles O20: a byte array is the form, at its own length, of the number it spells, so it is the shortest
form exactly when its length is. -/
theorem twosComplementBytesReadBack : Obligations.TwosComplementBytesReadBack := by
  refine ⟨fun n L hL hlow hhigh => ⟨tcBytes_length n L, fun i x => toNat_of_getElem?_tcBytes,
    tcValue_tcBytes hL ((fitsBytes_iff_le n L).mpr ⟨hlow, hhigh⟩)⟩,
    fun B hB => ⟨?_, minimalBytes_iff_leading hB⟩⟩
  rw [minimalBytes_iff_tcLen hB]
  refine ⟨fun h => ?_, fun h => ?_⟩
  · rw [← tcBytes_length (tcValue B) (tcLen (tcValue B)), ← h]
  · rw [h, tcBytes_tcValue hB]

/-- Settles O27: what `pack` gives is the image of its pair and reads back as it. -/
theorem packHasOneClosedForm : Obligations.PackHasOneClosedForm := by
  intro c w hw hc
  refine ⟨fun u s => pack_eq_error_iff hc s, fun u => inRange_of_digits hc w,
    fun u s p hs h => ((pack_eq_ok_iff hc hs).mp h).2, fun u s u' s' p hs hs' h h' => ?_⟩
  have hread := (canonical_of_pack hc hw hs h).2
  have hread' := (canonical_of_pack hc hw hs' h').2
  exact Prod.mk.inj (hread.symm.trans hread')

/-- Settles O31, by the sign of the scale. -/
theorem normalizationKeepsTheNumber : Obligations.NormalizationKeepsTheNumber := by
  intro u s hs
  obtain ⟨heq, -⟩ := normalizeScale_eq hs u
  refine ⟨normalizeScale_scale_le u hs, fun hneg => ?negative, fun hnn => ?nonnegative,
    number_normalizeScale u hs⟩
  case negative => rw [heq, Int.toNat_of_nonpos hneg.le]
  case nonnegative =>
    rw [heq]
    exact ⟨by rw [Int.toNat_of_nonpos (by omega), pow_zero, mul_one], Int.toNat_of_nonneg hnn⟩

/-- Settles O32: the scale test, then `pack` of the normalized pair. -/
theorem encodeTaggedResults : Obligations.EncodeTaggedResults := by
  rintro w s v u hw hc rfl rfl
  rw [exec_enc s hw]
  refine ⟨fun hs hu => ?image, fun hs => ?scaleTooLarge, fun hs hu => ?valueTooLarge,
    fun hs hu => ?valueTooSmall⟩
  case image =>
    obtain ⟨p, hp⟩ := exists_pack_eq_ok hu (s.req.value s.cfg).scale.toNat
    refine ⟨p, ((pack_eq_ok_iff hc (by omega)).mp hp).2, ?_⟩
    rw [encTagged_eq_pack _ _ hs, hp]
    rfl
  case scaleTooLarge =>
    rw [encTagged_of_scale_gt _ _ hs]
    rfl
  case valueTooLarge =>
    rw [encTagged_eq_pack _ _ hs, pack_of_maxOf_lt hc hu]
    rfl
  case valueTooSmall =>
    rw [encTagged_eq_pack _ _ hs, pack_of_lt_minOf hc hu]
    rfl

/-- Settles O34: a canonical operand reads as a number in range with a scale of 0 to 6, so both fit. -/
theorem decodeResultsFitTheValuePort : Obligations.DecodeResultsFitTheValuePort := by
  rintro w s a hc rfl
  refine ⟨fun h => ?canonical, exec_dec_of_not_canonical, fun hw => ?mantissa⟩
  case canonical =>
    obtain ⟨hu, ⟨hs, -⟩, -⟩ := isImage_of_canonical hc h
    exact ⟨_, exec_dec_of_canonical h, decide_eq_true_iff, Int.natCast_natAbs _, rfl,
      Response.ports_valueOf (natAbs_lt_of_inRange hc hu) (scale_lt_two_pow_scW hc hs)⟩
  case mantissa =>
    subst hw
    exact ⟨canonical_w64 _ _, unpack_w64 _⟩

/-- Settles O36: two answers have the same bits iff the stored pairs agree. -/
theorem encodingsTellInputsApart : Obligations.EncodingsTellInputsApart := by
  rintro w s t p q v v' hc ht rfl rfl hs hq
  obtain ⟨hscale, hp, hread⟩ := unpack_of_exec_enc hc hs
  obtain ⟨hscale', hq, hread'⟩ := unpack_of_exec_enc (ht ▸ hc) hq
  rw [← unpack_inj hc hp (ht ▸ hq), hread, hread']
  refine ⟨fun hw => ?tagged, fun hw => ?mantissa⟩
  case tagged => rw [storedPair_tagged hw, storedPair_tagged hw]
  case mantissa =>
    subst hw
    rw [← number_storedPair .w64 hscale, ← number_storedPair .w64 hscale', storedPair_w64, storedPair_w64,
      number_left_inj, Prod.mk_left_inj]

end Sys2Proof.Spec

/-! SUPPORT. The arithmetic family (spec 41_arithmetic.md) by what each operation answers: the flags of the
checked primitives (R110 to R112), the results and errors of ADD, SUB, NEG and RSC (R116 to R132), the
algebraic laws of R133, CMP as the order of the numbers (R139), and the statements on them. -/

namespace Sys2Proof.Machine

open Sys2Proof.Spec

/-! ## The checked primitives (R110 to R112) -/

theorem checked_eq_ovf_iff {t : Int} : checked t = .ovf ↔ 2 ^ 63 - 1 < t ∨ t < -2 ^ 63 := by
  rw [← not_iff_not, not_or, not_lt, not_lt, and_comm, ← fitsI64_iff, checked]
  split <;> simp [*]

theorem checked_of_fits {t : Int} (h : fitsI64 t = true) : checked t = .fits t :=
  checked_eq_fits_iff.mpr ⟨h, rfl⟩

theorem checked_of_ne_ovf {t : Int} (h : checked t ≠ .ovf) : checked t = .fits t := by
  cases hr : checked t with
  | fits r => rw [(checked_eq_fits_iff.mp hr).2]
  | ovf => exact absurd hr h

/-! ## The exact results -/

section Arith

variable {c : Config} {w : Width} {a b p : Packed w}

theorem alignedScale_comm (a b : Packed w) : alignedScale a b = alignedScale b a := max_comm _ _

theorem alignedResult_add_comm (a b : Packed w) : alignedResult .add a b = alignedResult .add b a := by
  rw [alignedResult, alignedResult, alignedScale_comm b a]
  exact add_comm _ _

/-- A canonical value is what re-encoding the number it reads as gives. -/
theorem repack_unpack (hc : c.Legal) (ha : canonical c a = true) :
    repack c w (unpack a).1 (unpack a).2 = .ok a := by
  obtain ⟨hu, ⟨hs, -⟩, himage⟩ := isImage_of_canonical hc ha
  exact repack_of_isImage hc hs hu himage

/-- The one error of re-encoding (R116). -/
theorem repack_eq_error (hc : c.Legal) {t : Int} {s : Nat} {k : ErrorKind} (hs : s ≤ 6)
    (h : repack c w t s = .error k) : k = .arithmeticOverflow := by
  obtain ⟨-, p, hp, -⟩ | ⟨-, hp⟩ := repack_cases hc (w := w) (t := t) hs
  · cases hp.symm.trans h
  · cases hp.symm.trans h
    rfl

/-- Only the tagged widths have reserved patterns (R66, R68). -/
theorem ne_w64_of_not_canonical (h : ¬ canonical c a = true) : w ≠ .w64 := by
  rintro rfl
  exact h (canonical_w64 c a)

theorem not_both_canonical_iff : ¬ (canonical c a && canonical c b) = true ↔
    canonical c a = false ∨ canonical c b = false := by
  rw [Bool.not_eq_true, Bool.and_eq_false_iff]

theorem ne_w64_of_not_both_canonical (h : ¬ (canonical c a && canonical c b) = true) : w ≠ .w64 :=
  (not_both_canonical_iff.mp h).elim (fun ha => ne_w64_of_not_canonical (ne_true_of_eq_false ha))
    fun hb => ne_w64_of_not_canonical (ne_true_of_eq_false hb)

/-! ## ADD (R117, R133) -/

/-- The fast path treats its operands alike, so it gives the same result or none either way round. -/
theorem fastAddSub_add_comm (a b : Packed w) : fastAddSub .add a b = fastAddSub .add b a := by
  simp only [fastAddSub, AddOp.checked, addo64]
  rw [max_comm (unpack b).2, Bool.and_comm (isCompact b)]
  cases mulo64 (unpack a).1 (pow10 (max (unpack a).2 (unpack b).2 - (unpack a).2)) with
  | ovf => cases mulo64 (unpack b).1 (pow10 (max (unpack a).2 (unpack b).2 - (unpack b).2)) <;> rfl
  | fits xa =>
    cases mulo64 (unpack b).1 (pow10 (max (unpack a).2 (unpack b).2 - (unpack b).2)) with
    | ovf => rfl
    | fits xb => simp only [add_comm xb xa]

/-- R133: addition commutes under any build, errors included. -/
theorem addSub_add_comm (c : Config) (a b : Packed w) : addSub c .add a b = addSub c .add b a := by
  rw [addSub, addSub, Bool.and_comm, fastAddSub_add_comm, slowAddSub_eq, slowAddSub_eq,
    alignedResult_add_comm, alignedScale_comm]

theorem addSub_eq_error (hc : c.Legal) {op : AddOp} {k : ErrorKind} (h : addSub c op a b = .error k) :
    k = .arithmeticOverflow ∨ (w ≠ .w64 ∧ k = .nonCanonicalOperand) := by
  by_cases hab : (canonical c a && canonical c b) = true
  · obtain ⟨ha, hb⟩ := (Bool.and_eq_true _ _).mp hab
    rw [addSub_eq_repack hc op ha hb] at h
    exact .inl (repack_eq_error hc (scaleOk_alignedScale ha hb).1 h)
  · rw [addSub_of_not_canonical op hab] at h
    cases h
    exact .inr ⟨ne_w64_of_not_both_canonical hab, rfl⟩

/-- R133: a zero at a scale not above a's leaves a as it is. -/
theorem add_zero_eq (hc : c.Legal) (ha : canonical c a = true) (hb : canonical c b = true)
    (hzero : (unpack b).1 = 0) (hscale : (unpack b).2 ≤ (unpack a).2) : addSub c .add a b = .ok a := by
  have hs : alignedScale a b = (unpack a).2 := max_eq_left hscale
  have ht : alignedResult .add a b = (unpack a).1 := by simp [alignedResult, AddOp.exact, hs, hzero]
  rw [addSub_eq_repack hc _ ha hb, hs, ht, repack_unpack hc ha]

theorem alignedScale_self (a : Packed w) : alignedScale a a = (unpack a).2 := Nat.max_self _

theorem alignedResult_sub_self (a : Packed w) : alignedResult .sub a a = 0 := sub_self _

/-! ## NEG (R125, R133) -/

theorem negate_of_not_canonical (ha : ¬ canonical c a = true) :
    negate c a = .error .nonCanonicalOperand := if_neg ha

theorem negate_eq_error (hc : c.Legal) {k : ErrorKind} (h : negate c a = .error k) :
    k = .arithmeticOverflow ∨ (w ≠ .w64 ∧ k = .nonCanonicalOperand) := by
  by_cases ha : canonical c a = true
  · rw [negate_eq_repack hc ha] at h
    exact .inl (repack_eq_error hc (scaleOk_of_canonical ha).1 h)
  · rw [negate_of_not_canonical ha] at h
    cases h
    exact .inr ⟨ne_w64_of_not_canonical ha, rfl⟩

/-- R133: what NEG answers reads back as the negated number, whose negation is the operand. -/
theorem negate_negate (hc : c.Legal) (h : negate c a = .ok p) : negate c p = .ok a := by
  have ha := canonical_of_negate_eq_ok h
  rw [negate_eq_repack hc ha] at h
  obtain ⟨hp, hread⟩ := canonical_of_repack hc (scaleOk_of_canonical ha) h
  rw [negate_eq_repack hc hp, hread, neg_neg, repack_unpack hc ha]

/-- At W = 64 the one number without a negation is −2^63 (R126). -/
theorem inRange_neg_w64_iff (c : Config) (a : Packed .w64) :
    InRange c .w64 (-(unpack a).1) ↔ a.b ≠ 0x8000000000000000#64 := by
  have hlow := BitVec.le_toInt a.b
  have hhigh := BitVec.toInt_lt (x := a.b)
  have hmin : (0x8000000000000000#64 : Word64).toInt = -2 ^ 63 := by decide
  rw [unpack_w64, InRange, minOf, maxOf, ne_eq, ← BitVec.toInt_inj, hmin]
  norm_num at hlow hhigh ⊢
  omega

/-! ## RSC (R129, R133, R173) -/

theorem rescale_of_not_canonical (ha : ¬ canonical c a = true) (n : Int) :
    rescale c a n = .error .nonCanonicalOperand := if_neg ha

theorem rescale_own_scale (ha : canonical c a = true) : rescale c a (unpack a).2 = .ok a := by
  obtain ⟨hs, -⟩ := scaleOk_of_canonical ha
  rw [rescale, if_pos ha, if_neg (by omega), if_pos rfl]

/-- R129: a new scale outside 0 to 6, or below the stored one. -/
theorem rescale_invalid (ha : canonical c a = true) {n : Int} (h : n < 0 ∨ 6 < n ∨ n < (unpack a).2) :
    rescale c a n = .error .invalidScale := by
  rw [rescale, if_pos ha]
  split
  · rfl
  · next hn => rw [if_neg (by omega), if_pos (by omega)]

/-- R118 for RSC: on a canonical operand the exact widening, re-encoded, also at the operand's own scale. -/
theorem rescale_eq_repack (hc : c.Legal) (ha : canonical c a = true) {n : Nat} (hs : (unpack a).2 ≤ n)
    (hn : n ≤ 6) : rescale c a n = repack c w ((unpack a).1 * 10 ^ (n - (unpack a).2)) n := by
  obtain rfl | hlt := hs.eq_or_lt
  · rw [rescale_own_scale ha, Nat.sub_self, pow_zero, mul_one, repack_unpack hc ha]
  · rw [rescale, if_pos ha, if_neg (by omega), if_neg (by omega), if_neg (by omega), Int.toNat_natCast,
      widen_eq_repack hc a hn]

theorem rescale_eq_error (hc : c.Legal) {n : Int} {k : ErrorKind} (h : rescale c a n = .error k) :
    k = .invalidScale ∨ k = .arithmeticOverflow ∨ (w ≠ .w64 ∧ k = .nonCanonicalOperand) := by
  by_cases ha : canonical c a = true
  · by_cases hn : n < 0 ∨ 6 < n ∨ n < (unpack a).2
    · rw [rescale_invalid ha hn] at h
      cases h
      exact .inl rfl
    · lift n to Nat using (by omega)
      rw [rescale_eq_repack hc ha (by omega) (by omega)] at h
      exact .inr (.inl (repack_eq_error hc (by omega) h))
  · rw [rescale_of_not_canonical ha] at h
    cases h
    exact .inr (.inr ⟨ne_w64_of_not_canonical ha, rfl⟩)

/-- What RSC answers is canonical and stands for the operand's number (R129). -/
theorem numberOf_rescale (hc : c.Legal) {n : Int} (h : rescale c a n = .ok p) :
    canonical c p = true ∧ numberOf p = numberOf a := by
  refine ⟨canonical_of_rescale hc h, ?_⟩
  obtain ⟨ha, ⟨-, rfl⟩ | ⟨hlt, hn, hp⟩⟩ := rescale_eq_ok_cases hc h
  · rfl
  · have hs : ScaleOk w n.toNat := ⟨by omega, fun hw => by
      have := (scaleOk_of_canonical ha).2 hw
      omega⟩
    rw [numberOf, (canonical_of_repack hc hs hp).2, number_mul_ten_pow _ (by omega), numberOf]

/-! ## CMP (R139) -/

/-- The exact difference of the aligned integers stands for the difference of the numbers (R114, R115). -/
theorem number_alignedResult_sub (a b : Packed w) :
    number (alignedResult .sub a b) (alignedScale a b) = numberOf a - numberOf b := by
  have ha : numberOf a = number ((unpack a).1 * 10 ^ (alignedScale a b - (unpack a).2)) (alignedScale a b) :=
    (number_mul_ten_pow _ (le_max_left _ _)).symm
  have hb : numberOf b = number ((unpack b).1 * 10 ^ (alignedScale a b - (unpack b).2)) (alignedScale a b) :=
    (number_mul_ten_pow _ (le_max_right _ _)).symm
  rw [ha, hb, number, number, number, ← sub_div, ← Int.cast_sub]
  rfl

theorem cmpSign_eq (a b : Packed w) : cmpSign a b = (alignedResult .sub a b).sign := by
  simp only [cmpSign, pow10_eq]
  rfl

theorem number_neg_iff (u : Int) (s : Nat) : number u s < 0 ↔ u < 0 := by
  rw [number, div_lt_iff₀ (by positivity), zero_mul, Int.cast_lt_zero]

theorem number_pos_iff (u : Int) (s : Nat) : 0 < number u s ↔ 0 < u := by
  rw [number, div_pos_iff_of_pos_right (by positivity), Int.cast_pos]

theorem number_eq_zero_iff (u : Int) (s : Nat) : number u s = 0 ↔ u = 0 := by
  simp [number]

theorem compareNumbers_eq (ha : canonical c a = true) (hb : canonical c b = true) :
    compareNumbers c a b = .ok (BitVec.ofInt 32 (alignedResult .sub a b).sign) := by
  rw [compareNumbers, ha, hb, Bool.and_self, if_pos rfl, cmpSign_eq]

theorem compareNumbers_of_not_canonical (h : ¬ (canonical c a && canonical c b) = true) :
    compareNumbers c a b = .error .nonCanonicalOperand := if_neg h

section Order

variable (ha : canonical c a = true) (hb : canonical c b = true)

include ha hb

theorem compareNumbers_of_lt (h : numberOf a < numberOf b) : compareNumbers c a b = .ok 0xFFFFFFFF#32 := by
  rw [← sub_neg, ← number_alignedResult_sub, number_neg_iff] at h
  rw [compareNumbers_eq ha hb, Int.sign_eq_neg_one_of_neg h]
  rfl

theorem compareNumbers_of_eq (h : numberOf a = numberOf b) : compareNumbers c a b = .ok 0#32 := by
  rw [← sub_eq_zero, ← number_alignedResult_sub, number_eq_zero_iff] at h
  rw [compareNumbers_eq ha hb, h]
  rfl

theorem compareNumbers_of_gt (h : numberOf b < numberOf a) : compareNumbers c a b = .ok 1#32 := by
  rw [← sub_pos, ← number_alignedResult_sub, number_pos_iff] at h
  rw [compareNumbers_eq ha hb, Int.sign_eq_one_of_pos h]
  rfl

end Order

theorem compareNumbers_eq_error {k : ErrorKind} (h : compareNumbers c a b = .error k) :
    w ≠ .w64 ∧ k = .nonCanonicalOperand := by
  rw [compareNumbers] at h
  split at h
  · cases h
  · next hab =>
    cases h
    exact ⟨ne_w64_of_not_both_canonical hab, rfl⟩

/-! ## The errors of the codec family (R88, R91, R93 to R95) -/

theorem dec_eq_error {k : ErrorKind} (h : dec c a = .error k) : w ≠ .w64 ∧ k = .nonCanonicalOperand := by
  rw [dec] at h
  split at h
  · cases h
  · next ha =>
    cases h
    exact ⟨ne_w64_of_not_canonical ha, rfl⟩

end Arith

/-- The errors ENC may report (R88, R91). -/
def ErrorKind.OfEncode (k : ErrorKind) : Prop := k = .scaleTooLarge ∨ k = .valueTooLarge ∨ k = .valueTooSmall

theorem encTagged_eq_error {c : Config} (hc : c.Legal) {w : Width} {v : Value} {k : ErrorKind}
    (h : encTagged c w v = .error k) : k.OfEncode := by
  rcases le_or_gt v.scale 6 with hv | hv
  · rw [encTagged_eq_pack _ _ hv] at h
    obtain ⟨-, p, hp, -⟩ | ⟨-, hp⟩ | ⟨-, hp⟩ := pack_cases hc (w := w)
      (u := unscaled v * 10 ^ (-v.scale).toNat) (s := v.scale.toNat) (by omega)
    · cases hp.symm.trans h
    · cases hp.symm.trans h
      exact .inr (.inl rfl)
    · cases hp.symm.trans h
      exact .inr (.inr rfl)
  · rw [encTagged_of_scale_gt _ _ hv] at h
    cases h
    exact .inl rfl

theorem encMantissa_eq_error {v : Value} {k : ErrorKind} (h : encMantissa v = .error k) : k.OfEncode := by
  rcases le_or_gt v.scale 6 with hv | hv
  · rw [encMantissa_eq hv rfl] at h
    split at h
    · cases h
      exact .inr (.inl rfl)
    · split at h
      · cases h
        exact .inr (.inr rfl)
      · cases h
  · rw [encMantissa_of_scale_gt hv] at h
    cases h
    exact .inl rfl

/-! ## The responses -/

/-- An operation answered with an error, so it ended in that error. -/
theorem error_of_complete {α : Type} {g : α → Response} {s : State} {e : Except ErrorKind α}
    {k : ErrorKind} (hg : ∀ y, g y ≠ .err k) (h : complete s (e.map g) = .next (s.answer (.err k))) :
    e = .error k := by
  cases e with
  | ok y => exact absurd ((next_answer_inj s).mp h) (hg y)
  | error j =>
    cases (next_answer_inj s).mp h
    rfl

section Responses

variable {w : Width} {s : State}

/-- R116: an operation that re-encodes t answers with its image where t is in range. -/
theorem complete_repack_of_inRange (hc : s.cfg.Legal) {t : Int} {k : Nat} (hk : k ≤ 6)
    (ht : InRange s.cfg w t) : ∃ p, IsImage w t k p ∧
      complete s ((repack s.cfg w t k).map (Response.packed w)) = .next (s.answer (.packed w p)) := by
  obtain ⟨-, p, hp, himage⟩ | ⟨hn, -⟩ := repack_cases hc (w := w) (t := t) hk
  · exact ⟨p, himage, by rw [hp]; rfl⟩
  · exact absurd ht hn

/-- R116: and with ArithmeticOverflow where it is not. -/
theorem complete_repack_of_not_inRange (hc : s.cfg.Legal) {t : Int} {k : Nat} (hk : k ≤ 6)
    (ht : ¬ InRange s.cfg w t) : complete s ((repack s.cfg w t k).map (Response.packed w)) =
      .next (s.answer (.err .arithmeticOverflow)) := by
  obtain ⟨hin, -⟩ | ⟨-, hp⟩ := repack_cases hc (w := w) (t := t) hk
  · exact absurd hin ht
  · rw [hp]
    rfl

theorem exec_addSub (op : AddOp) (w : Width) (s : State) : exec (instrOf w (opOf op)) s =
    complete s ((addSub s.cfg op (s.req.packedA w) (s.req.packedB w)).map (Response.packed w)) := by
  cases op
  · exact exec_add s w
  · exact exec_sub s w

end Responses

end Sys2Proof.Machine

namespace Sys2Proof.Spec

open Sys2Proof.Machine

/-- The two errors that ADD, SUB, NEG and RSC share are theirs to report (R150, R151). -/
theorem mayRaise_of_arith {w : Width} {o : Op} {k : ErrorKind}
    (ho : o = .add ∨ o = .sub ∨ o = .neg ∨ o = .rsc)
    (h : k = .arithmeticOverflow ∨ (w ≠ .w64 ∧ k = .nonCanonicalOperand)) : MayRaise (instrOf w o) k := by
  obtain rfl | ⟨hw, rfl⟩ := h
  · rwa [MayRaise, op_instrOf]
  · rw [MayRaise, width_instrOf, op_instrOf]
    refine ⟨hw, ?_⟩
    obtain rfl | rfl | rfl | rfl := ho <;> simp

/-- Settles O15: an error response is the error its operation ended in. -/
theorem operationsReportOnlyTheirOwnErrors : Obligations.OperationsReportOnlyTheirOwnErrors := by
  intro i s k hc h
  rw [← instrOf_width_op i] at h ⊢
  generalize i.width = w at h ⊢
  generalize i.op = o at h ⊢
  have hpacked : ∀ (e : Except ErrorKind (Packed w)),
      complete s (e.map (Response.packed w)) = .next (s.answer (.err k)) → e = .error k :=
    fun e => error_of_complete (fun _ => nofun)
  cases o with
  | enc =>
    have henc : k.OfEncode := by
      by_cases hw : w = .w64
      · subst hw
        exact encMantissa_eq_error (hpacked _ (exec_enc_w64 s ▸ h))
      · exact encTagged_eq_error hc (hpacked _ (exec_enc s hw ▸ h))
    obtain rfl | rfl | rfl := henc <;> exact op_instrOf w .enc
  | dec =>
    obtain ⟨hw, rfl⟩ := dec_eq_error (error_of_complete (g := .value) (fun _ => nofun) (exec_dec s w ▸ h))
    simpa [MayRaise] using hw
  | add => exact mayRaise_of_arith (by simp) (addSub_eq_error hc (hpacked _ (exec_add s w ▸ h)))
  | sub => exact mayRaise_of_arith (by simp) (addSub_eq_error hc (hpacked _ (exec_sub s w ▸ h)))
  | neg => exact mayRaise_of_arith (by simp) (negate_eq_error hc (hpacked _ (exec_neg s w ▸ h)))
  | rsc =>
    obtain rfl | hk := rescale_eq_error hc (hpacked _ (exec_rsc s w ▸ h))
    · exact op_instrOf w .rsc
    · exact mayRaise_of_arith (by simp) hk
  | cmp =>
    obtain ⟨hw, rfl⟩ := compareNumbers_eq_error
      (error_of_complete (g := .scalar) (fun _ => nofun) (exec_cmp s w ▸ h))
    simpa [MayRaise] using hw
  | eq => cases (next_answer_inj s).mp (exec_eq s w ▸ h)
  | hash => cases (next_answer_inj s).mp (exec_hash s w ▸ h)

/-- Settles O38: each operation is its exact result, re-encoded. -/
theorem fastPathAgreesWithSlowPath : Obligations.FastPathAgreesWithSlowPath := by
  intro c w a b hc ha hb
  refine ⟨?_, negate_eq_repack hc ha, fun n => rescale_eq_repack hc ha⟩
  rintro op s rfl
  exact addSub_eq_repack hc op ha hb

/-- Settles O39: the exact result, re-encoded. -/
theorem addSubResults : Obligations.AddSubResults := by
  rintro op w s a b k t hc rfl rfl rfl rfl
  rw [exec_addSub]
  refine ⟨fun ha hb ht => ?image, fun ha hb ht => ?overflow, fun h => ?reserved⟩
  case image =>
    rw [addSub_eq_repack hc op ha hb]
    exact complete_repack_of_inRange hc (scaleOk_alignedScale ha hb).1 ht
  case overflow =>
    rw [addSub_eq_repack hc op ha hb]
    exact complete_repack_of_not_inRange hc (scaleOk_alignedScale ha hb).1 ht
  case reserved =>
    rw [addSub_of_not_canonical op (not_both_canonical_iff.mpr h)]
    rfl

/-- Settles O40: the negated integer, re-encoded. -/
theorem negateResults : Obligations.NegateResults := by
  rintro w s a hc rfl
  rw [exec_neg]
  refine ⟨fun ha ht => ?image, fun ha ht => ?overflow, fun ha => ?reserved, fun hw => ?mantissa⟩
  case image =>
    rw [negate_eq_repack hc ha]
    exact complete_repack_of_inRange hc (scaleOk_of_canonical ha).1 ht
  case overflow =>
    rw [negate_eq_repack hc ha]
    exact complete_repack_of_not_inRange hc (scaleOk_of_canonical ha).1 ht
  case reserved =>
    rw [negate_of_not_canonical (ne_true_of_eq_false ha)]
    rfl
  case mantissa =>
    subst hw
    exact inRange_neg_w64_iff _ _

/-- Settles O41: the operand test, the scale test, then the exact widening, re-encoded. -/
theorem rescaleResults : Obligations.RescaleResults := by
  rintro w s a n t hc rfl hn rfl
  rw [exec_rsc, ← hn]
  refine ⟨fun ha h0 h6 hs ht => ?image, fun ha h0 h6 hs ht => ?overflow, fun ha h => ?invalid,
    fun ha => ?reserved⟩
  case image =>
    lift n to Nat using h0
    rw [Int.toNat_sub] at ht ⊢
    rw [rescale_eq_repack hc ha (by omega) (by omega)]
    exact complete_repack_of_inRange hc (by omega) ht
  case overflow =>
    lift n to Nat using h0
    rw [Int.toNat_sub] at ht
    rw [rescale_eq_repack hc ha (by omega) (by omega)]
    exact complete_repack_of_not_inRange hc (by omega) ht
  case invalid =>
    rw [rescale_invalid ha h]
    rfl
  case reserved =>
    rw [rescale_of_not_canonical (ne_true_of_eq_false ha)]
    rfl

/-- Settles O42: the two responses are those of one result. -/
theorem addIsCommutative : Obligations.AddIsCommutative := by
  intro w s t hcfg hA hB
  rw [exec_add, exec_add, hcfg, hA, hB, addSub_add_comm]
  exact complete_same s t _

/-- Settles O44: the two sign changes cancel, and a canonical pattern is the one image of its number. -/
theorem negationIsAnInvolution : Obligations.NegationIsAnInvolution := by
  rintro w s t p hc ht hneg rfl
  rw [exec_neg, ht, negate_negate hc (ok_of_complete_packed (exec_neg s w ▸ hneg))]
  rfl

/-- Settles O45: the operand's own scale, and a scale below it. -/
theorem rescaleIdentityAndNoNarrowing : Obligations.RescaleIdentityAndNoNarrowing := by
  rintro w s a rfl ha
  rw [exec_rsc]
  refine ⟨fun hn => ?own, fun hn => ?smaller⟩
  case own =>
    rw [hn, rescale_own_scale ha]
    rfl
  case smaller =>
    rw [rescale_invalid ha (.inr (.inr hn))]
    rfl

/-- Settles O46: the exact results are a's integer and 0, both at a's scale. -/
theorem addingZeroAndSubtractingItself : Obligations.AddingZeroAndSubtractingItself := by
  rintro w s a b hc rfl rfl ha hb
  rw [exec_add, exec_sub]
  refine ⟨fun hzero hscale => ?zero, fun hself => ?self⟩
  case zero =>
    rw [add_zero_eq hc ha hb hzero hscale]
    rfl
  case self =>
    rw [hself, addSub_eq_repack hc _ ha ha, alignedResult_sub_self, alignedScale_self]
    exact complete_repack_of_inRange hc (scaleOk_of_canonical ha).1 (inRange_of_fits hc w rfl)

/-- Settles O47: the widened integer at the new scale is the same number. -/
theorem rescaleKeepsTheNumber : Obligations.RescaleKeepsTheNumber := by
  rintro w s t p hc ht hrsc rfl hB
  have hok := ok_of_complete_packed (exec_rsc s w ▸ hrsc)
  obtain ⟨hp, hnum⟩ := numberOf_rescale hc hok
  obtain ⟨ha, -⟩ := rescale_eq_ok_cases hc hok
  refine ⟨hnum, ?_⟩
  rw [exec_cmp, ht, hB, compareNumbers_of_eq hp ha hnum]
  rfl

/-- Settles O49: the sign of the exact difference is the order of the numbers. -/
theorem orderingComparesTheNumbers : Obligations.OrderingComparesTheNumbers := by
  rintro w s a b rfl rfl
  rw [exec_cmp]
  refine ⟨fun ha hb => ⟨fun h => ?less, fun h => ?equal, fun h => ?greater⟩, fun h => ?reserved⟩
  case less =>
    rw [compareNumbers_of_lt ha hb h]
    rfl
  case equal =>
    rw [compareNumbers_of_eq ha hb h]
    rfl
  case greater =>
    rw [compareNumbers_of_gt ha hb h]
    rfl
  case reserved =>
    rw [compareNumbers_of_not_canonical (not_both_canonical_iff.mpr h)]
    rfl

/-- Settles O37: the three primitives share one flag rule; the rest is its arithmetic. -/
theorem checkedPrimitivesFlagExactlyOverflow : Obligations.CheckedPrimitivesFlagExactlyOverflow := by
  intro x y hx hy
  have hadd : addo64 x y = .ovf ↔ 2 ^ 63 - 1 < x + y ∨ x + y < -2 ^ 63 := checked_eq_ovf_iff
  have hsub : subo64 x y = .ovf ↔ 2 ^ 63 - 1 < x - y ∨ x - y < -2 ^ 63 := checked_eq_ovf_iff
  refine ⟨hadd, checked_of_ne_ovf, fun h => ?sum, hsub, checked_of_ne_ovf, fun h => ?difference,
    checked_eq_ovf_iff, checked_of_ne_ovf, ?one, ?zero, rfl, ?ten⟩
  case sum =>
    rw [hadd] at h
    omega
  case difference =>
    rw [hsub] at h
    omega
  case one => rw [mulo64, mul_one, checked_of_fits ((fitsI64_iff x).mpr hx)]
  case zero => rw [mulo64, zero_mul, checked_of_fits rfl]
  case ten =>
    rw [mulo64, checked_eq_ovf_iff]
    omega

end Sys2Proof.Spec

/-! SUPPORT. The comparison family (spec 42_compare.md): the header word each width takes from its port
(R13), EQ and HASH on those bits (R135, R143), where EQ and CMP part (R147), and the statements on them. -/

namespace Sys2Proof.Machine

open Sys2Proof.Spec

/-! ## The header word on its port (R13) -/

theorem headerOfPort_w64 (h : Word64) : headerOfPort .w64 h = 0#0 := BitVec.of_length_zero

theorem headerOfPort_w96 (h : Word64) : headerOfPort .w96 h = BitVec.ofNat 32 h.toNat := rfl

theorem headerOfPort_w128 (h : Word64) : headerOfPort .w128 h = h := BitVec.extractLsb'_eq_self

theorem headerOfPort_inj {w : Width} {h k : Word64} :
    headerOfPort w h = headerOfPort w k ↔ h.toNat % 2 ^ w.hb = k.toNat % 2 ^ w.hb := by
  rw [← BitVec.toNat_inj, headerOfPort, headerOfPort, BitVec.extractLsb'_toNat, BitVec.extractLsb'_toNat,
    Nat.shiftRight_zero, Nat.shiftRight_zero]

section Operands

variable (q : Request)

theorem Request.packedA_eq_packedB_iff (w : Width) :
    q.packedA w = q.packedB w ↔ headerOfPort w q.aH = headerOfPort w q.bH ∧ q.aB = q.bB := by
  rw [packedA, packedB, Packed.mk.injEq]

theorem Request.packedA_eq_packedB_w64 : q.packedA .w64 = q.packedB .w64 ↔ q.aB = q.bB := by
  rw [packedA_eq_packedB_iff, headerOfPort_w64, headerOfPort_w64]
  exact and_iff_right rfl

theorem Request.packedA_eq_packedB_w96 : q.packedA .w96 = q.packedB .w96 ↔
    q.aH.toNat % 2 ^ 32 = q.bH.toNat % 2 ^ 32 ∧ q.aB = q.bB := by
  rw [packedA_eq_packedB_iff]
  exact and_congr_left' headerOfPort_inj

theorem Request.packedA_eq_packedB_w128 : q.packedA .w128 = q.packedB .w128 ↔
    q.aH = q.bH ∧ q.aB = q.bB := by
  rw [packedA_eq_packedB_iff, headerOfPort_w128, headerOfPort_w128]
  exact Iff.rfl

end Operands

/-! ## EQ (R135) -/

theorem eqScalar_eq_one_iff {w : Width} (a b : Packed w) : eqScalar a b = 1#32 ↔ a = b := by
  rw [eqScalar]
  split <;> simp [*]

theorem eqScalar_eq_zero_iff {w : Width} (a b : Packed w) : eqScalar a b = 0#32 ↔ a ≠ b := by
  rw [eqScalar]
  split <;> simp [*]

theorem exec_eq_scalar_iff (s : State) (w : Width) (x : Scalar) :
    exec (instrOf w .eq) s = .next (s.answer (.scalar x)) ↔
      eqScalar (s.req.packedA w) (s.req.packedB w) = x := by
  rw [exec_eq, next_answer_inj, Response.scalar.injEq]

/-! ## EQ against CMP (R147) -/

section Divergence

variable {w : Width} {c : Config} {a b : Packed w} {s : State}

/-- R139: CMP answers 0 exactly where its operands stand for one number. -/
theorem compareNumbers_eq_zero_iff (ha : canonical c a = true) (hb : canonical c b = true) :
    compareNumbers c a b = .ok 0#32 ↔ numberOf a = numberOf b := by
  obtain hlt | heq | hgt := lt_trichotomy (numberOf a) (numberOf b)
  · rw [compareNumbers_of_lt ha hb hlt]
    exact iff_of_false (by decide) hlt.ne
  · rw [compareNumbers_of_eq ha hb heq]
    exact iff_of_true rfl heq
  · rw [compareNumbers_of_gt ha hb hgt]
    exact iff_of_false (by decide) hgt.ne'

theorem exec_cmp_zero_iff (ha : canonical s.cfg (s.req.packedA w) = true)
    (hb : canonical s.cfg (s.req.packedB w) = true) :
    exec (instrOf w .cmp) s = .next (s.answer (.scalar 0#32)) ↔
      numberOf (s.req.packedA w) = numberOf (s.req.packedB w) := by
  rw [exec_cmp, ← compareNumbers_eq_zero_iff ha hb]
  refine ⟨ok_of_complete s (fun _ _ => Response.scalar.inj) fun _ _ => Response.noConfusion, fun h => ?_⟩
  rw [h]
  rfl

/-- R87: canonical patterns have the same bits exactly where number and scale agree. -/
theorem eq_iff_numberOf_eq_and_scale_eq (hc : c.Legal) (ha : canonical c a = true)
    (hb : canonical c b = true) :
    a = b ↔ numberOf a = numberOf b ∧ (unpack a).2 = (unpack b).2 := by
  rw [← unpack_inj hc ha hb, Prod.ext_iff]
  refine and_congr_left fun hscale => ?_
  rw [numberOf, numberOf, hscale, number_left_inj]

end Divergence

end Sys2Proof.Machine

namespace Sys2Proof.Spec

open Sys2Proof.Machine

/-- Settles O48: two packed operands are equal where the words their width has are. -/
theorem equalityReadsRawBits : Obligations.EqualityReadsRawBits := by
  intro s
  refine ⟨(exec_eq s .w64).trans ?w64, (exec_eq s .w96).trans ?w96, (exec_eq s .w128).trans ?w128⟩
  case w64 => simp only [eqScalar, Request.packedA_eq_packedB_w64]
  case w96 => simp only [eqScalar, Request.packedA_eq_packedB_w96]
  case w128 => simp only [eqScalar, Request.packedA_eq_packedB_w128]

/-- Settles O51: canonical bits are a number and a scale, EQ compares both, and CMP the number. -/
theorem equalityAndOrderingDiverge : Obligations.EqualityAndOrderingDiverge := by
  rintro w s a b hc rfl rfl ha hb
  rw [exec_eq_scalar_iff, exec_eq_scalar_iff, eqScalar_eq_one_iff, eqScalar_eq_zero_iff, ne_eq,
    exec_cmp_zero_iff ha hb, eq_iff_numberOf_eq_and_scale_eq hc ha hb]
  refine ⟨And.left, and_congr_right fun hnum => not_congr (and_iff_right hnum), fun h => ?agree⟩
  case agree =>
    have hscale : (unpack (s.req.packedA w)).2 = (unpack (s.req.packedB w)).2 := by
      obtain hscale | rfl := h
      · exact hscale
      · rw [unpack_w64, unpack_w64]
    exact (and_iff_left hscale).symm

/-- Settles O50: HASH is a function of its packed operand, and EQ = 1 means the operands are equal. -/
theorem hashReadsRawBits : Obligations.HashReadsRawBits := by
  refine ⟨fun s => ⟨exec_hash s .w64, (exec_hash s .w96).trans ?w96, (exec_hash s .w128).trans ?w128⟩,
    fun w e s t hs ht heq => ?equal⟩
  case w96 => rw [hashScalar, Request.packedA, headerOfPort_w96]
  case w128 => rw [hashScalar, Request.packedA, headerOfPort_w128]
  case equal =>
    rw [exec_eq_scalar_iff, eqScalar_eq_one_iff] at heq
    rw [exec_hash, exec_hash, hs, ht, heq]
    exact ⟨_, rfl, rfl⟩

end Sys2Proof.Spec

/-! SUPPORT. The first request after reset (spec 70_reset_and_hazards.md R170), and the statement on it. -/

namespace Sys2Proof.Machine

open Sys2Proof.Spec

/-- With no response pending, accepting a request is all that happens to the channels. -/
theorem taken_of_nothing_pending {s : State} (h : s.responses = []) (q : Request) (rest : List Request) :
    taken s q rest = { s with requests := rest, req := q } := by
  rw [taken, State.deliver_of_idle (.inr h)]

end Sys2Proof.Machine

namespace Sys2Proof.Spec

open Sys2Proof.Machine

/-- Settles O7: the step under reset drops what is pending; then nothing is left to deliver, so the first
request is taken and answered by the rules of any other. -/
theorem resetDropsUndeliveredResponses : Obligations.ResetDropsUndeliveredResponses := by
  intro s hrst
  have hnotReady : s.reqReady = false := by
    rw [← Bool.not_eq_true, State.reqReady_iff, hrst]
    decide
  refine ⟨hnotReady, (State.rspValid_eq_false_iff s).mpr (.inl hrst), s.dropPending, step_rst s hrst, rfl,
    fun u hu => ?released⟩
  case released =>
    have hrun : u.rst = false := by rw [hu]
    have hempty : u.responses = [] := by rw [hu, State.dropPending_responses]
    refine ⟨(State.reqReady_iff u).mpr hrun, (State.rspValid_eq_false_iff u).mpr (.inr hempty),
      fun q rest hq => ?_⟩
    rw [← taken_of_nothing_pending hempty]
    exact ⟨fun i => stepRunsTheDecodedCommand u q rest i hrun hq,
      (reservedCommandsAnswerIllegalCommand u q rest hrun hq).1⟩

end Sys2Proof.Spec
